-- ==== Sys2Proof/Word.lean ====
section
/-! DEFINITION. The word types of the engine (00_scope R13) and the modulus p (00_scope R7). -/

namespace Sys2Proof

/-- A 64-bit register, argument, command word, memory word or stored residue. -/
abbrev Word := BitVec 64

/-- One byte of the memory window. -/
abbrev Byte := BitVec 8

/-- MERSBASE, the p of the spec, 2^61 − 1 (00_scope R7). -/
def mersBase : Nat := 0x1FFFFFFFFFFFFFFF

/-- BITS, the exponent of the modulus (00_scope R7). -/
def mersBits : Nat := 61

end Sys2Proof
end

