-- ==== Sys2Proof/Config.lean ====
section
/-! DEFINITION. The implementation parameters of 00_scope R5 to R11, and the one free value of the model. -/

namespace Sys2Proof

/-- P_REDUCE (00_scope R9, 41_kernel R101): which representative of a residue class reduction returns. -/
inductive ReduceMode where
  | lazy
  | canonical
deriving DecidableEq, Repr

/-- P_SL_CSUM (00_scope R9, 44_seeding R164): the checksum convention of SEED_LINEAR. -/
inductive CsumMode where
  | full
  | excl0
deriving DecidableEq, Repr

/-- FB_SHIFTS (00_scope R9): the left-shift amounts of the fallback seeding, 45_skip R186. -/
structure FbShifts where
  cluster : Nat
  machine : Nat
  run : Nat
  stream : Nat
deriving DecidableEq, Repr

/-- What the memory window maps (20_memory R56): ordinary memory, or a device whose reads have side
effects, a configuration to which a model gives no meaning. -/
inductive WindowKind where
  | ordinary
  | readSideEffects
deriving DecidableEq, Repr

/-- The build configuration, fixed for the lifetime of a build (00_scope R5). -/
structure Config where
  /-- N, the vector dimension (R6). -/
  n : Nat
  /-- SPECIAL_C: `none`, or the constant of the extra term (R8). -/
  specialC : Option Word
  /-- TABLE: `none`, or 128 rows of N residues (R10). -/
  table : Option (List (List Word))
  /-- P_REDUCE (R9). -/
  pReduce : ReduceMode
  /-- P_SL_CSUM (R9). -/
  slCsum : CsumMode
  /-- FB_SHIFTS (R9). -/
  fbShifts : FbShifts
  /-- MEM_SIZE in bytes (R11). -/
  memSize : Nat
  /-- What the memory window maps (20_memory R56). -/
  window : WindowKind
deriving DecidableEq, Repr

/-- The default FB_SHIFTS, (5, 7, 11, 13) (00_scope R9). -/
def FbShifts.default : FbShifts := { cluster := 5, machine := 7, run := 11, stream := 13 }

/-- Test configuration TC8 (42_iteration) with the MEM_SIZE of 95_test_vectors. -/
def Config.tc8 : Config :=
  { n := 8, specialC := none, table := none, pReduce := .lazy, slCsum := .full,
    fbShifts := FbShifts.default, memSize := 0x10000, window := .ordinary }

/-- FREE VALUE: the outcome of the k-th free draw between two memory values (20_memory R60,
70_reset R251: "chosen freely"). Nothing constrains it. Log 7. -/
opaque Config.freeDraw : Nat → Bool

end Sys2Proof
end

