-- ==== Sys2Proof/Syntax.lean ====
section
/-! DEFINITION. The commands of 30_encoding R71, one constructor for each row of the opcode table, and the
fields of a command word (30_encoding R70). Operands come from ARG0-ARG3 and never from the word
(30_encoding R74), so a command carries no operand; SEED_STREAM carries its REQT bit. -/

namespace Sys2Proof

/-- The commands of the engine (30_encoding R71). -/
inductive Instr where
  /-- NOP (40_control R94). -/
  | nop
  /-- MODADD (41_kernel R109). -/
  | modadd
  /-- MODMUL (41_kernel R110). -/
  | modmul
  /-- FMMA (41_kernel R111). -/
  | fmma
  /-- REDUCE (41_kernel R112). -/
  | reduce
  /-- ITERATE (42_iteration R123). -/
  | iterate
  /-- ITERATE_N (42_iteration R124). -/
  | iterateN
  /-- NEXT_RAW (43_extraction R141). -/
  | nextRaw
  /-- NEXT_UNIFORM (43_extraction R142). -/
  | nextUniform
  /-- FILL_UNIFORM (43_extraction R143). -/
  | fillUniform
  /-- SEED_BASIS (44_seeding R160). -/
  | seedBasis
  /-- SEED_LINEAR (44_seeding R163). -/
  | seedLinear
  /-- RECOMPUTE_CSUM (44_seeding R166). -/
  | recomputeCsum
  /-- SEED_STREAM, with its "require table" bit (45_skip R184). -/
  | seedStream (reqt : Bool)
  /-- SKIP (45_skip R183). -/
  | skip
  /-- EXPORT (46_transfer R201). -/
  | exportState
  /-- IMPORT (46_transfer R202). -/
  | importState
  /-- LOADV (46_transfer R205). -/
  | loadv
deriving DecidableEq, Repr

/-- The fields of a command word (30_encoding R70). -/
structure CommandFields where
  /-- OPC, bits 7 to 0. -/
  opc : BitVec 8
  /-- REQT, bit 8. -/
  reqt : Bool
  /-- The reserved bits 63 to 9. -/
  reserved : BitVec 55
deriving DecidableEq, Repr

end Sys2Proof
end

