-- ==== Sys2Proof/WellFormed.lean ====
section
/-! DEFINITION. What is well formed before anything runs: the fields of a legal command word (30_encoding R72)
and a legal configuration (00_scope R6 to R11). Every term of `Instr` is well formed: a command has no operand
field, and REQT exists on SEED_STREAM only. -/

namespace Sys2Proof

/-- The OPC values of the opcode map (30_encoding R71). -/
def assignedOpcodes : List (BitVec 8) :=
  [0x00, 0x01, 0x02, 0x03, 0x04, 0x10, 0x11, 0x20, 0x21, 0x22,
   0x30, 0x31, 0x32, 0x33, 0x34, 0x40, 0x41, 0x42]

/-- A command word is legal iff OPC is in the map, bits 63 to 9 are 0, and bit 8 is 0 unless OPC = 0x33
(30_encoding R72). -/
abbrev CommandFields.wf (f : CommandFields) : Prop :=
  f.opc ∈ assignedOpcodes ∧ f.reserved = 0 ∧ (f.reqt = true → f.opc = 0x33)

/-- SPECIAL_C is `none` or a residue c with 0 ≤ c ≤ p (00_scope R8). -/
def Config.specialOk (c : Config) : Bool :=
  match c.specialC with
  | none => true
  | some k => decide (k.toNat ≤ mersBase)

/-- TABLE is `none` or 128 rows of N entries, each at most p (00_scope R10). -/
def Config.tableOk (c : Config) : Bool :=
  match c.table with
  | none => true
  | some t => t.length == 128 && t.all fun row => row.length == c.n && row.all fun w => decide (w.toNat ≤ mersBase)

/-- Each of the four fallback shifts is in [0, 28] (00_scope R9). -/
abbrev FbShifts.wf (f : FbShifts) : Prop :=
  f.cluster ≤ 28 ∧ f.machine ≤ 28 ∧ f.run ≤ 28 ∧ f.stream ≤ 28

/-- The parameters are inside their ranges (00_scope R6, R8, R9, R10, R11). -/
abbrev Config.wf (c : Config) : Prop :=
  8 ≤ c.n ∧ c.n ≤ 65535 ∧ c.specialOk = true ∧ c.tableOk = true ∧ c.fbShifts.wf ∧
    c.memSize % 8 = 0 ∧ 0 < c.memSize ∧ c.memSize ≤ 2 ^ 64

end Sys2Proof
end

