-- ==== Sys2Proof/Decode.lean ====
section
/-! DEFINITION. The decoder of command words (30_encoding R70 to R73), total and rejecting by name, and the encoder. -/

namespace Sys2Proof

/-- Why a command word is not legal (30_encoding R72, R73). The engine's outcome is IllegalCommand for each. -/
inductive DecodeError where
  /-- Some bit of 63 to 9 is 1. -/
  | reservedBits
  /-- OPC is not in the opcode map. -/
  | reservedOpcode
  /-- REQT is 1 and OPC is not 0x33. -/
  | requireTableNotAllowed
deriving DecidableEq, Repr

/-- The fields of the word w (30_encoding R70). -/
def commandFields (w : Word) : CommandFields :=
  { opc := w.extractLsb' 0 8, reqt := w.getLsbD 8, reserved := w.extractLsb' 9 55 }

/-- The word that has the fields f (30_encoding R70). -/
def wordOfFields (f : CommandFields) : Word :=
  f.reserved ++ BitVec.ofBool f.reqt ++ f.opc

/-- A command that has no REQT bit: REQT must be 0 (30_encoding R72). -/
def withoutReqt (reqt : Bool) (i : Instr) : Except DecodeError Instr :=
  if reqt then .error .requireTableNotAllowed else .ok i

/-- The opcode map (30_encoding R71). -/
def decodeFields (f : CommandFields) : Except DecodeError Instr :=
  if f.reserved ≠ 0 then .error .reservedBits
  else
    match f.opc.toNat with
    | 0x00 => withoutReqt f.reqt .nop
    | 0x01 => withoutReqt f.reqt .modadd
    | 0x02 => withoutReqt f.reqt .modmul
    | 0x03 => withoutReqt f.reqt .fmma
    | 0x04 => withoutReqt f.reqt .reduce
    | 0x10 => withoutReqt f.reqt .iterate
    | 0x11 => withoutReqt f.reqt .iterateN
    | 0x20 => withoutReqt f.reqt .nextRaw
    | 0x21 => withoutReqt f.reqt .nextUniform
    | 0x22 => withoutReqt f.reqt .fillUniform
    | 0x30 => withoutReqt f.reqt .seedBasis
    | 0x31 => withoutReqt f.reqt .seedLinear
    | 0x32 => withoutReqt f.reqt .recomputeCsum
    | 0x33 => .ok (.seedStream f.reqt)
    | 0x34 => withoutReqt f.reqt .skip
    | 0x40 => withoutReqt f.reqt .exportState
    | 0x41 => withoutReqt f.reqt .importState
    | 0x42 => withoutReqt f.reqt .loadv
    | _ => .error .reservedOpcode

/-- The command of a word, or why the word is illegal (30_encoding R72: the decoder is total). -/
def decode (w : Word) : Except DecodeError Instr := decodeFields (commandFields w)

/-- What the decoder reads from a table row's word w of nbits bits (spec/opcode_table.json: bit 0 is the least
significant bit). A command is one 64-bit word, so bits above 63 make no command. -/
def decodeTableWord (nbits w : Nat) : Option Instr :=
  if w % 2 ^ nbits < 2 ^ 64 then (decode (BitVec.ofNat 64 (w % 2 ^ nbits))).toOption else none

/-- The OPC value of a command (30_encoding R71). -/
def Instr.opcode : Instr → BitVec 8
  | .nop => 0x00
  | .modadd => 0x01
  | .modmul => 0x02
  | .fmma => 0x03
  | .reduce => 0x04
  | .iterate => 0x10
  | .iterateN => 0x11
  | .nextRaw => 0x20
  | .nextUniform => 0x21
  | .fillUniform => 0x22
  | .seedBasis => 0x30
  | .seedLinear => 0x31
  | .recomputeCsum => 0x32
  | .seedStream _ => 0x33
  | .skip => 0x34
  | .exportState => 0x40
  | .importState => 0x41
  | .loadv => 0x42

/-- The REQT bit of a command: only SEED_STREAM may set it (30_encoding R70). -/
def Instr.reqtBit : Instr → Bool
  | .seedStream reqt => reqt
  | .nop | .modadd | .modmul | .fmma | .reduce | .iterate | .iterateN | .nextRaw | .nextUniform
  | .fillUniform | .seedBasis | .seedLinear | .recomputeCsum | .skip | .exportState | .importState
  | .loadv => false

/-- The fields of a command's word (30_encoding R70, R71). -/
def Instr.fields (i : Instr) : CommandFields := { opc := i.opcode, reqt := i.reqtBit, reserved := 0 }

/-- The command word of a command (30_encoding R70, R71). -/
def encode (i : Instr) : Word := wordOfFields i.fields

end Sys2Proof
end

