-- ==== Sys2Proof/Machine/State.lean ====
section
/-! DEFINITION. The state of the engine (10_state), the host events that drive it, its error causes, the ways a step
can stop, and the state after reset (10_state R40). -/

namespace Sys2Proof.Machine

/-- The memory window (20_memory R50): (address, byte) pairs, addresses strictly rising, no entry equal to what an
unlisted address reads as (Machine/Ops.lean: `Memory.unlisted`, `Memory.wf`). -/
abbrev Memory := List Host.Cell

/-- The error causes of 60_exceptions R220. -/
inductive ErrCause where
  /-- code 1 -/
  | invalidIndex
  /-- code 2 -/
  | zeroSeed
  /-- code 3 -/
  | importOutOfRangeValue
  /-- code 4 -/
  | importInvalidCursor
  /-- code 5 -/
  | importChecksumMismatch
  /-- code 6 -/
  | missingSkipTable
  /-- code 7 -/
  | importSizeMismatch
  /-- code 8 -/
  | illegalCommand
  /-- code 9 -/
  | operandRange
  /-- code 10 -/
  | addressError
  /-- code 11 -/
  | notSeeded
deriving DecidableEq, Repr

/-- What the outside world can do to the engine, in the order it happens (40_control R91: the host may step between
the transitions accept and complete). Log 6. -/
inductive HostEvent where
  /-- A register write of `width` bits at a byte offset of the register window (10_state R33, R34). -/
  | regWrite (width : Nat) (offset : BitVec 8) (value : Word)
  /-- A register read (10_state R33, R34). -/
  | regRead (width : Nat) (offset : BitVec 8)
  /-- MW: a 64-bit write of the memory window (30_encoding R76). -/
  | memWrite (addr value : Word)
  /-- MR: a 64-bit read of the memory window (30_encoding R76). -/
  | memRead (addr : Word)
  /-- The platform asserts reset (70_reset R250, R251). -/
  | reset
  /-- The host lets the engine go on: a running command completes (40_control R93). -/
  | engineTurn
deriving DecidableEq, Repr

/-- The state of the engine and of what drives it. INVENTORY.md, '## State', names the rule of every field. -/
structure State where
  /-- The build configuration; read-only (00_scope R5, 10_state R20). Log 1. -/
  cfg : Config
  /-- V, the state vector (10_state R21). -/
  v : List Word
  /-- CSUM (10_state R23). -/
  csum : Word
  /-- CURSOR, stored in 16 bits (10_state R24). -/
  cursor : BitVec 16
  /-- SEEDED, also STATUS bit 2 (10_state R25). -/
  seeded : Bool
  /-- NSKIP (10_state R26). -/
  nskip : BitVec 32
  /-- ARG0 (10_state R29). -/
  arg0 : Word
  /-- ARG1 (10_state R29). -/
  arg1 : Word
  /-- ARG2 (10_state R29). -/
  arg2 : Word
  /-- ARG3 (10_state R29). -/
  arg3 : Word
  /-- RESULT (10_state R30). -/
  result : Word
  /-- The latched command word while a command runs (10_state R38); STATUS.BUSY is 1 iff there is one. -/
  running : Option Word
  /-- STATUS.ERR (10_state R31). -/
  err : Bool
  /-- STATUS.WERR (10_state R31, R35). -/
  werr : Bool
  /-- STATUS.ERRCODE (10_state R31). -/
  errcode : BitVec 8
  /-- The memory window (20_memory R50). -/
  mem : Memory
  /-- Model's own: window words the running command has already read, with the value it read (20_memory R60). Log 9. -/
  latched : List (Nat × Word)
  /-- Model's own: window words of the running command on which a racing host write wins (20_memory R60). Log 10. -/
  kept : List Nat
  /-- Model's own: the host events still to happen. Log 6. -/
  host : List HostEvent
  /-- Model's own: the values the host's reads returned, newest first. Log 20. -/
  observed : List Word
  /-- Model's own: how many free draws have been made. Log 7. -/
  draws : Nat
deriving DecidableEq, Repr

/-- Why a step stops with a fault: nothing does, so there is no constructor. A failing command is a next state, and the
model's only stops are the refusals of 60_exceptions R236. Safe. -/
inductive Fault
deriving DecidableEq, Repr

/-- Why a step has no meaning. -/
inductive Refusal where
  /-- An instruction without a meaning in the model; raised by `exec` only, by no arm of it now. Safe. -/
  | notModelled (mnemonic : String)
  /-- Raised by a host register access that is not 64-bit and 8-byte aligned (10_state R34, 60_exceptions R236).
  Safe. -/
  | hostRegisterAccess
  /-- Raised by every step of a configuration with a parameter outside its range (00_scope R6 to R11,
  60_exceptions R236). Safe. -/
  | illegalConfiguration
  /-- Raised by every step of a configuration whose memory window has read side effects (20_memory R56,
  60_exceptions R236). Safe. -/
  | windowWithSideEffects
deriving DecidableEq, Repr

/-- The outcome of a step or of a command. -/
abbrev Result := Host.Outcome State Fault Refusal

/-- The engine of configuration c right after reset (10_state R40, 70_reset R250). V, CSUM and CURSOR, which the spec
leaves without a value, are zeros: DESIGN CHOICE, unsafe, log 3. -/
def State.resetWith (c : Config) : State :=
  { cfg := c, v := List.replicate c.n 0, csum := 0, cursor := 0, seeded := false, nskip := 2,
    arg0 := 0, arg1 := 0, arg2 := 0, arg3 := 0, result := 0, running := none,
    err := false, werr := false, errcode := 0, mem := [], latched := [], kept := [],
    host := [], observed := [], draws := 0 }

/-- The machine after reset, in configuration TC8 (log 2: DESIGN CHOICE, every statement is for all configurations). -/
def State.reset : State := State.resetWith Config.tc8

end Sys2Proof.Machine
end

