-- ==== Sys2Proof/Machine/Flags.lean ====
section
/-! DEFINITION. The status flags: the numbers of the error causes (60_exceptions R220), the STATUS word (10_state R31)
and the CONFIG and SPECIAL_C words (10_state R27, R28). -/

namespace Sys2Proof.Machine

/-- The ERRCODE of an error cause (60_exceptions R220). -/
def ErrCause.code : ErrCause → BitVec 8
  | .invalidIndex => 1
  | .zeroSeed => 2
  | .importOutOfRangeValue => 3
  | .importInvalidCursor => 4
  | .importChecksumMismatch => 5
  | .missingSkipTable => 6
  | .importSizeMismatch => 7
  | .illegalCommand => 8
  | .operandRange => 9
  | .addressError => 10
  | .notSeeded => 11

/-- STATUS.BUSY: 1 from the acceptance of a command until its completion (10_state R31). -/
def State.busy (s : State) : Bool := s.running.isSome

/-- The STATUS word (10_state R31): BUSY bit 0, ERR bit 1, SEEDED bit 2, WERR bit 3, zeros in 7 to 4, ERRCODE in
15 to 8, zeros above. -/
def State.statusWord (s : State) : Word :=
  (0 : BitVec 48) ++ s.errcode ++ (0 : BitVec 4) ++ BitVec.ofBool s.werr ++ BitVec.ofBool s.seeded ++
    BitVec.ofBool s.err ++ BitVec.ofBool s.busy

/-- REDUCE_MODE, bit 26 of CONFIG (10_state R27). -/
def ReduceMode.bit : ReduceMode → Bool
  | .lazy => false
  | .canonical => true

/-- SL_CSUM, bit 27 of CONFIG (10_state R27). -/
def CsumMode.bit : CsumMode → Bool
  | .full => false
  | .excl0 => true

/-- The CONFIG word (10_state R27): N, BITS, TABLE_PRESENT, SPECIAL_EN, REDUCE_MODE, SL_CSUM, zeros. -/
def State.configWord (s : State) : Word :=
  (0 : BitVec 36) ++ BitVec.ofBool (CsumMode.bit s.cfg.slCsum) ++ BitVec.ofBool (ReduceMode.bit s.cfg.pReduce) ++
    BitVec.ofBool s.cfg.specialC.isSome ++ BitVec.ofBool s.cfg.table.isSome ++ BitVec.ofNat 8 mersBits ++
    BitVec.ofNat 16 s.cfg.n

/-- The SPECIAL_C register: the constant when SPECIAL_EN = 1, else 0 (10_state R28). -/
def State.specialWord (s : State) : Word := s.cfg.specialC.getD 0

end Sys2Proof.Machine
end

