-- ==== Sys2Proof/Machine/Ops.lean ====
section
/-! DEFINITION. The operations every command shares: bytes and words of the memory window (20_memory), the lifecycle
of a command (40_control R90 to R92), and the effect of an error, which is the engine's exception entry
(60_exceptions R224). The engine has no return from an error (60_exceptions R226). -/

namespace Sys2Proof.Machine

/-- What a byte of the window that the memory does not list reads as: 0. The spec gives none; DESIGN CHOICE, unsafe,
log 4. -/
def Memory.unlisted : Byte := 0

/-- The canonical form: addresses strictly rising, no listed byte equal to what an unlisted one reads as. -/
abbrev Memory.wf (m : Memory) : Prop :=
  m.Pairwise (fun x y => x.1 < y.1) ∧ ∀ c ∈ m, c.2 ≠ Memory.unlisted

/-- Every listed address is inside the window [0, size) (20_memory R50). -/
abbrev Memory.within (m : Memory) (size : Nat) : Prop := ∀ c ∈ m, c.1 < size

/-- The byte at an address. -/
def Memory.readByte : Memory → Nat → Byte
  | [], _ => Memory.unlisted
  | c :: m, a => if c.1 = a then c.2 else Memory.readByte m a

/-- The entry (a, b) in front of m, left out when b is what an unlisted address reads as. -/
def Memory.consByte (a : Nat) (b : Byte) (m : Memory) : Memory :=
  if b = Memory.unlisted then m else (a, b) :: m

/-- The memory with byte b at address a, in canonical form. -/
def Memory.writeByte : Memory → Nat → Byte → Memory
  | [], a, b => Memory.consByte a b []
  | c :: m, a, b =>
    if a < c.1 then Memory.consByte a b (c :: m)
    else if a = c.1 then Memory.consByte a b m
    else c :: Memory.writeByte m a b

/-- MemRead(a, n): n bytes from address a, least significant first (20_memory R52). -/
def Memory.readBytes (m : Memory) (a : Nat) : Nat → Nat
  | 0 => 0
  | n + 1 => (m.readByte a).toNat + 2 ^ 8 * Memory.readBytes m (a + 1) n

/-- MemWrite(a, n, x): the n low bytes of x from address a, least significant first (20_memory R53). -/
def Memory.writeBytes (m : Memory) (a : Nat) : Nat → Nat → Memory
  | 0, _ => m
  | n + 1, x => Memory.writeBytes (m.writeByte a (BitVec.ofNat 8 x)) (a + 1) n (x / 2 ^ 8)

/-- The 64-bit word at byte address a (20_memory R52). -/
def Memory.readWord (m : Memory) (a : Nat) : Word := BitVec.ofNat 64 (m.readBytes a 8)

/-- The memory with the 64-bit word w at byte address a (20_memory R53). -/
def Memory.writeWord (m : Memory) (a : Nat) (w : Word) : Memory := m.writeBytes a 8 w.toNat

/-- The words ws with their addresses a, a + 8, … (20_memory R51). -/
def wordsAt : Nat → List Word → List (Nat × Word)
  | _, [] => []
  | a, w :: ws => (a, w) :: wordsAt (a + 8) ws

/-- The memory after the word writes ps, in order. -/
def Memory.writeAll (m : Memory) : List (Nat × Word) → Memory
  | [] => m
  | c :: ps => (m.writeWord c.1 c.2).writeAll ps

/-- A word the engine's memory port reads at completion: the word it read before a racing host write, where there is
one (20_memory R60, log 9), else the word in memory. -/
def State.portRead (s : State) (a : Nat) : Word := (s.latched.lookup a).getD (s.mem.readWord a)

/-- The k words the engine's memory port reads from byte address a on (20_memory R51). -/
def State.portReads (s : State) (a : Nat) : Nat → List Word
  | 0 => []
  | k + 1 => s.portRead a :: s.portReads (a + 8) k

/-- The window after the engine has written ws from address a on: every word but those on which a racing host write
wins (20_memory R51, R60, log 10). None of a kept word is written, so where the host's write covered only some of its
bytes the others keep what memory held: DESIGN CHOICE, unsafe, log 30. -/
def State.portWrites (s : State) (a : Nat) (ws : List Word) : Memory :=
  s.mem.writeAll ((wordsAt a ws).filter fun c => !s.kept.contains c.1)

/-- Acceptance of the command word w (40_control R90). -/
def accept (w : Word) (s : State) : State :=
  { s with running := some w, err := false, errcode := 0, latched := [], kept := [] }

/-- The state at a successful completion (40_control R92); s holds the command's updates. -/
def completed (s : State) : State :=
  { s with running := none, err := false, errcode := 0, latched := [], kept := [] }

/-- The state at a failing completion: nothing but STATUS changes (60_exceptions R224). -/
def failed (e : ErrCause) (s : State) : State :=
  { s with running := none, err := true, errcode := e.code, latched := [], kept := [] }

/-- A command that succeeds with the updates in s (40_control R92). -/
def succeed (s : State) : Result := .next (completed s)

/-- `raise Error(e)` (00_scope R14): taking the engine's one kind of exception (60_exceptions R224). -/
def raise (e : ErrCause) (s : State) : Result := .next (failed e s)

end Sys2Proof.Machine
end

