-- ==== Sys2Proof/Machine/Control.lean ====
section
/-! DEFINITION. The control family: NOP (40_control). -/

namespace Sys2Proof.Machine

/-- NOP (40_control R94): nothing but a successful completion. -/
def execNop (s : State) : Result := succeed s

end Sys2Proof.Machine
end

