-- ==== Sys2Proof/Machine/Operands.lean ====
section
/-! DEFINITION. The operand forms of 30_encoding R74 and R75 and the checks on them (60_exceptions R221). Every
argument is a 64-bit value used as a natural number, never sign-extended. -/

namespace Sys2Proof.Machine

/-- A residue operand must be at most p (30_encoding R74). -/
abbrev residueOk (w : Word) : Prop := w.toNat ≤ mersBase

/-- A count or an ID component must be below 2^32 (30_encoding R74). -/
abbrev below32 (w : Word) : Prop := w.toNat < 2 ^ 32

/-- REDUCE's 128-bit input s = ARG1 · 2^64 + ARG0 (30_encoding R75). -/
def State.reduceInput (s : State) : Nat := s.arg1.toNat * 2 ^ 64 + s.arg0.toNat

/-- The greatest input of the reduction, p·(p+1) = 2^122 − 2^61 (41_kernel R102). -/
def reduceMax : Nat := mersBase * (mersBase + 1)

/-- The four ID components are each below 2^32, checked ARG0 to ARG3 (45_skip R183, R184). -/
abbrev State.idsOk (s : State) : Prop :=
  below32 s.arg0 ∧ below32 s.arg1 ∧ below32 s.arg2 ∧ below32 s.arg3

/-- The ID in level order: stream, run, machine, cluster (45_skip R180, R183). -/
def State.levelIds (s : State) : List Nat :=
  [s.arg3.toNat, s.arg2.toNat, s.arg1.toNat, s.arg0.toNat]

/-- A command that accesses `words` 64-bit words from base a may do so: a is a multiple of 8 and the range stays in
the memory window, in exact arithmetic (20_memory R54, R55). -/
abbrev addressOk (c : Config) (a words : Nat) : Prop := a % 8 = 0 ∧ a + 8 * words ≤ c.memSize

/-- The number of words of a state record, N + 3 (46_transfer R200). -/
def recordWords (c : Config) : Nat := c.n + 3

end Sys2Proof.Machine
end

