-- ==== Sys2Proof/Machine/Kernel.lean ====
section
/-! DEFINITION. The modular arithmetic kernel (41_kernel): its primitives, over exact natural numbers as the spec
writes them (00_scope R13), and the four kernel commands. -/

namespace Sys2Proof.Machine

/-- One shift-and-mask step of the reduction (41_kernel R100). -/
def fold (k : Nat) : Nat := (k &&& mersBase) + (k >>> mersBits)

/-- The representative function that P_REDUCE selects (41_kernel R101). -/
def red : ReduceMode → Nat → Nat
  | .lazy, x => if x = 0 then 0 else (x - 1) % mersBase + 1
  | .canonical, x => x % mersBase

/-- The conditional subtract of CANONICAL (41_kernel R102, R104). -/
def subtractOnce : ReduceMode → Nat → Nat
  | .lazy, t => t
  | .canonical, t => if t = mersBase then 0 else t

/-- The first fold of a 128-bit value, s1 (41_kernel R102). -/
def foldWide (s : Nat) : Nat :=
  (s % 2 ^ 64 &&& mersBase) + 8 * (s / 2 ^ 64) + (s % 2 ^ 64) >>> mersBits

/-- reduce128 (41_kernel R102). -/
def reduce128 (m : ReduceMode) (s : Nat) : Nat := subtractOnce m (fold (foldWide s))

/-- modadd (41_kernel R104). -/
def modadd (m : ReduceMode) (a b : Nat) : Nat := subtractOnce m (fold (a + b))

/-- modmul (41_kernel R105). -/
def modmul (m : ReduceMode) (a b : Nat) : Nat := reduce128 m (a * b)

/-- fmma (41_kernel R106). -/
def fmma (m : ReduceMode) (acc a b : Nat) : Nat := reduce128 m (acc + a * b)

/-- csum_full (41_kernel R107). -/
def csumFull (m : ReduceMode) (v : List Nat) : Nat := v.foldl (modadd m) 0

/-- csum_excl0 (41_kernel R108): index 0 is left out. -/
def csumExcl0 (m : ReduceMode) (v : List Nat) : Nat := csumFull m v.tail

/-- MODADD (41_kernel R109). -/
def execModadd (s : State) : Result :=
  if residueOk s.arg0 ∧ residueOk s.arg1 then
    succeed { s with result := BitVec.ofNat 64 (modadd s.cfg.pReduce s.arg0.toNat s.arg1.toNat) }
  else raise .operandRange s

/-- MODMUL (41_kernel R110). -/
def execModmul (s : State) : Result :=
  if residueOk s.arg0 ∧ residueOk s.arg1 then
    succeed { s with result := BitVec.ofNat 64 (modmul s.cfg.pReduce s.arg0.toNat s.arg1.toNat) }
  else raise .operandRange s

/-- FMMA (41_kernel R111): acc = ARG0, a = ARG1, b = ARG2. -/
def execFmma (s : State) : Result :=
  if residueOk s.arg0 ∧ residueOk s.arg1 ∧ residueOk s.arg2 then
    succeed { s with result := BitVec.ofNat 64 (fmma s.cfg.pReduce s.arg0.toNat s.arg1.toNat s.arg2.toNat) }
  else raise .operandRange s

/-- REDUCE (41_kernel R112). -/
def execReduce (s : State) : Result :=
  if s.reduceInput ≤ reduceMax then
    succeed { s with result := BitVec.ofNat 64 (reduce128 s.cfg.pReduce s.reduceInput) }
  else raise .operandRange s

end Sys2Proof.Machine
end

