-- ==== Sys2Proof/Machine/Iteration.lean ====
section
/-! DEFINITION. The iteration engine (42_iteration): the raw iteration and the commands ITERATE and ITERATE_N. -/

namespace Sys2Proof.Machine

/-- V and the checksum that goes with it, as the natural numbers the pseudocode works on (00_scope R13). -/
structure Gen where
  v : List Nat
  cs : Nat
deriving DecidableEq, Repr

/-- The generator part of the state. -/
def State.gen (s : State) : Gen := { v := s.v.map BitVec.toNat, cs := s.csum.toNat }

/-- The elements of V as stored 64-bit values (10_state R21). -/
def storedV (v : List Nat) : List Word := v.map (BitVec.ofNat 64)

/-- V and CSUM written from g. -/
def State.withGen (s : State) (g : Gen) : State :=
  { s with v := storedV g.v, csum := BitVec.ofNat 64 g.cs }

/-- Step 2 of iterate_raw (42_iteration R120) over the old values of V[1..N): the new values and the running total. -/
def iterLoop (m : ReduceMode) (part carry total : Nat) : List Nat → List Nat × Nat
  | [] => ([], total)
  | x :: xs =>
    let part' := modadd m part x
    let carry' := modadd m carry part'
    let rest := iterLoop m part' carry' (total + carry') xs
    (carry' :: rest.1, rest.2)

/-- Steps 1 and 2 of iterate_raw (42_iteration R120): the new V before the SPECIAL term, and the running total T. -/
def iterSweep (m : ReduceMode) (g : Gen) : List Nat × Nat :=
  match g.v with
  | [] => ([], 0)
  | x :: xs =>
    let carry := modadd m x g.cs
    let rest := iterLoop m 0 carry 0 xs
    (carry :: rest.1, rest.2)

/-- The SPECIAL correction, c times the old V[1] (42_iteration R121); 0 where SPECIAL_C = none. -/
def specialCorr (c : Config) (g : Gen) : Nat :=
  match c.specialC with
  | none => 0
  | some k => modmul c.pReduce k.toNat (g.v.getD 1 0)

/-- V after step 3 of iterate_raw (42_iteration R121): V[2] absorbs the correction. -/
def specialV (c : Config) (g : Gen) (v : List Nat) : List Nat :=
  match c.specialC with
  | none => v
  | some _ => v.set 2 (modadd c.pReduce (v.getD 2 0) (specialCorr c g))

/-- The running total T at the end of step 3 (42_iteration R120, R126). -/
def iterTotal (c : Config) (g : Gen) : Nat := (iterSweep c.pReduce g).2 + specialCorr c g

/-- iterate_raw, one raw iteration (42_iteration R120). -/
def iterateRaw (c : Config) (g : Gen) : Gen :=
  { v := specialV c g (iterSweep c.pReduce g).1, cs := reduce128 c.pReduce (iterTotal c g) }

/-- k raw iterations (42_iteration R122, R124). -/
def iterateTimes (c : Config) : Nat → Gen → Gen
  | 0, g => g
  | k + 1, g => iterateTimes c k (iterateRaw c g)

/-- iterate: NSKIP + 1 raw iterations (42_iteration R122). -/
def State.iterate (s : State) (g : Gen) : Gen := iterateTimes s.cfg (s.nskip.toNat + 1) g

/-- ITERATE (42_iteration R123). -/
def execIterate (s : State) : Result :=
  if s.seeded = true then succeed (s.withGen (s.iterate s.gen)) else raise .notSeeded s

/-- ITERATE_N (42_iteration R124). -/
def execIterateN (s : State) : Result :=
  if s.seeded = true then
    if below32 s.arg0 then succeed (s.withGen (iterateTimes s.cfg s.arg0.toNat s.gen))
    else raise .operandRange s
  else raise .notSeeded s

end Sys2Proof.Machine
end

