-- ==== Sys2Proof/Machine/Extraction.lean ====
section
/-! DEFINITION. Output extraction (43_extraction): next_raw, the conversion to binary64, and the commands NEXT_RAW,
NEXT_UNIFORM and FILL_UNIFORM. -/

namespace Sys2Proof.Machine

/-- fp64(x) (43_extraction R144): the binary64 value nearest to x, ties to even, which for a natural number x is
again a natural number: x itself below 2^53, else x rounded to a multiple of 2^(⌊log2 x⌋ − 52). -/
def fp64 (x : Nat) : Nat :=
  if x < 2 ^ 53 then x
  else
    let ulp := 2 ^ (Nat.log2 x - 52)
    let q := x / ulp
    let r := x % ulp
    if ulp < 2 * r ∨ (2 * r = ulp ∧ q % 2 = 1) then (q + 1) * ulp else q * ulp

/-- The binary64 encoding of f · 2^−61, for a natural number f with at most 53 significant bits (43_extraction R144;
1 sign, 11 exponent and 52 fraction bits: 93_implementation_defined part 2): +0.0 for f = 0, else biased exponent
⌊log2 f⌋ − 61 + 1023 and the bits of f below its leading one. -/
def scaledBits (f : Nat) : Word :=
  if f = 0 then 0
  else BitVec.ofNat 64 ((Nat.log2 f + 1023 - 61) * 2 ^ 52 + (f * 2 ^ 52 / 2 ^ Nat.log2 f - 2 ^ 52))

/-- bits(u(x)), the encoding of u(x) = fp64(x) · 2^−61 (43_extraction R144). -/
def uniformBits (x : Nat) : Word := scaledBits (fp64 x)

/-- The residue next_raw returns (43_extraction R140). -/
def State.nextResidue (s : State) : Nat :=
  if s.cursor.toNat < s.cfg.n then s.gen.v.getD s.cursor.toNat 0 else (s.iterate s.gen).v.getD 1 0

/-- The state next_raw leaves (43_extraction R140). -/
def State.afterNext (s : State) : State :=
  if s.cursor.toNat < s.cfg.n then { s with cursor := s.cursor + 1 }
  else { s.withGen (s.iterate s.gen) with cursor := 2 }

/-- NEXT_RAW (43_extraction R141). -/
def execNextRaw (s : State) : Result :=
  if s.seeded = true then succeed { s.afterNext with result := BitVec.ofNat 64 s.nextResidue }
  else raise .notSeeded s

/-- NEXT_UNIFORM (43_extraction R142). -/
def execNextUniform (s : State) : Result :=
  if s.seeded = true then succeed { s.afterNext with result := uniformBits s.nextResidue }
  else raise .notSeeded s

/-- The full blocks of FILL_UNIFORM (43_extraction R143): k times, one iterate and then the residues V[1..N) of the
vector it leaves. -/
def State.fillBlocks (s : State) : Nat → Gen → List Nat × Gen
  | 0, g => ([], g)
  | k + 1, g =>
    let rest := s.fillBlocks k (s.iterate g)
    ((s.iterate g).v.tail ++ rest.1, rest.2)

/-- The number of full blocks, n div (N − 1) (43_extraction R143). -/
def State.fillQuot (s : State) : Nat := s.arg0.toNat / (s.cfg.n - 1)

/-- The size of the partial block, n mod (N − 1) (43_extraction R143). -/
def State.fillRem (s : State) : Nat := s.arg0.toNat % (s.cfg.n - 1)

/-- V and CSUM after FILL_UNIFORM (43_extraction R143). -/
def State.fillGen (s : State) : Gen :=
  let g := (s.fillBlocks s.fillQuot s.gen).2
  if s.fillRem = 0 then g else s.iterate g

/-- The residues FILL_UNIFORM writes, in slot order (43_extraction R143); the partial block includes V[0]. -/
def State.fillResidues (s : State) : List Nat :=
  (s.fillBlocks s.fillQuot s.gen).1 ++ s.fillGen.v.take s.fillRem

/-- The words FILL_UNIFORM writes (43_extraction R143, R147). -/
def State.fillWords (s : State) : List Word := s.fillResidues.map uniformBits

/-- CURSOR after FILL_UNIFORM (43_extraction R143). -/
def State.fillCursor (s : State) : BitVec 16 :=
  BitVec.ofNat 16 (if s.fillRem = 0 then s.cfg.n else s.fillRem)

/-- The address check of FILL_UNIFORM, made only when n > 0 (43_extraction R143, 20_memory R55). -/
abbrev State.fillAddressOk (s : State) : Prop :=
  s.arg0.toNat = 0 ∨ addressOk s.cfg s.arg1.toNat s.arg0.toNat

/-- FILL_UNIFORM (43_extraction R143). -/
def execFillUniform (s : State) : Result :=
  if s.seeded = true then
    if below32 s.arg0 then
      if s.fillAddressOk then
        succeed { s.withGen s.fillGen with
                    cursor := s.fillCursor, mem := s.portWrites s.arg1.toNat s.fillWords }
      else raise .addressError s
    else raise .operandRange s
  else raise .notSeeded s

/-- The word writes a running FILL_UNIFORM makes (20_memory R51): none where it fails. -/
def State.fillPlan (s : State) : List (Nat × Word) :=
  if s.seeded = true ∧ below32 s.arg0 ∧ s.fillAddressOk then wordsAt s.arg1.toNat s.fillWords else []

end Sys2Proof.Machine
end

