-- ==== Sys2Proof/Machine/Seeding.lean ====
section
/-! DEFINITION. Seeding and checksum recomputation (44_seeding): SEED_BASIS, SEED_LINEAR, RECOMPUTE_CSUM. -/

namespace Sys2Proof.Machine

/-- The state with a complete new generator state g installed: V and CSUM from g, CURSOR = N, SEEDED = 1
(44_seeding, 45_skip R184, 46_transfer R205). -/
def State.install (s : State) (g : Gen) : State :=
  { s.withGen g with cursor := BitVec.ofNat 16 s.cfg.n, seeded := true }

/-- The k-th standard basis vector of size n (44_seeding R160). -/
def basisVector (n k : Nat) : List Nat := (List.replicate n 0).set k 1

/-- SEED_BASIS (44_seeding R160, R161). -/
def execSeedBasis (s : State) : Result :=
  if s.arg0.toNat < s.cfg.n then
    succeed (s.install { v := basisVector s.cfg.n s.arg0.toNat, cs := if s.arg0.toNat = 0 then 0 else 1 })
  else raise .invalidIndex s

/-- The multiplier of the generator of SEED_LINEAR, 6364136223846793005 (44_seeding R163). -/
def lcgMultiplier : Nat := 6364136223846793005

/-- rotl64(x, k) of a 64-bit x (00_scope R13). -/
def rotl64 (x k : Nat) : Nat := ((x <<< k) ||| (x >>> (64 - k))) % 2 ^ 64

/-- One step of the generator: multiply modulo 2^64, then swap the halves (44_seeding R163). -/
def lcgNext (l : Nat) : Nat := rotl64 (l * lcgMultiplier % 2 ^ 64) 32

/-- The next k outputs of the generator in state l, each masked to 61 bits (44_seeding R162, R163). -/
def lcgFill : Nat → Nat → List Nat
  | 0, _ => []
  | k + 1, l => (lcgNext l &&& mersBase) :: lcgFill k (lcgNext l)

/-- V after SEED_LINEAR (44_seeding R163). -/
def linearVector (n seed : Nat) : List Nat := (seed &&& mersBase) :: lcgFill (n - 1) seed

/-- The checksum SEED_LINEAR installs (44_seeding R164). -/
def linearCsum (c : Config) (v : List Nat) : Nat :=
  match c.slCsum with
  | .full => csumFull c.pReduce v
  | .excl0 => csumExcl0 c.pReduce v

/-- SEED_LINEAR (44_seeding R163). -/
def execSeedLinear (s : State) : Result :=
  if s.arg0 = 0 then raise .zeroSeed s
  else
    succeed (s.install { v := linearVector s.cfg.n s.arg0.toNat,
                         cs := linearCsum s.cfg (linearVector s.cfg.n s.arg0.toNat) })

/-- RECOMPUTE_CSUM (44_seeding R166). -/
def execRecomputeCsum (s : State) : Result :=
  if s.seeded = true then
    succeed { s with csum := BitVec.ofNat 64 (csumExcl0 s.cfg.pReduce s.gen.v) }
  else raise .notSeeded s

end Sys2Proof.Machine
end

