-- ==== Sys2Proof/Machine/Skip.lean ====
section
/-! DEFINITION. Skip-ahead and stream seeding (45_skip): SKIP and SEED_STREAM with its fallback. -/

namespace Sys2Proof.Machine

/-- A vector with its EXCL0 checksum (45_skip R181). -/
def excl0Gen (c : Config) (v : List Nat) : Gen := { v := v, cs := csumExcl0 c.pReduce v }

/-- One lag of the accumulation: cum[i] <- fmma(cum[i], w, Y[i]) for every i (45_skip R181). -/
def accumulate (m : ReduceMode) (w : Nat) (cum y : List Nat) : List Nat :=
  List.zipWith (fun a b => fmma m a w b) cum y

/-- The lag loop of one set bit over the coefficients of its table row (45_skip R181): a raw iteration follows every
lag step, the last one too. -/
def lagLoop (c : Config) : List Nat → Gen → List Nat → List Nat
  | [], _, cum => cum
  | w :: ws, g, cum => lagLoop c ws (iterateRaw c g) (accumulate c.pReduce w cum g.v)

/-- The effect of one set bit with its table row: the accumulator becomes the working vector, its checksum is
recomputed (45_skip R181). -/
def skipRow (c : Config) (row : List Nat) (g : Gen) : Gen :=
  excl0Gen c (lagLoop c row g (List.replicate c.n 0))

/-- Row k of the table as natural numbers. -/
def tableRow (t : List (List Word)) (k : Nat) : List Nat := (t.getD k []).map BitVec.toNat

/-- Bit r of ID[L], where k = r + 32·L (45_skip R180). -/
def idBit (ids : List Nat) (k : Nat) : Bool := (ids.getD (k / 32) 0).testBit (k % 32)

/-- The rows ks, in order, each one applied where its ID bit is set; an unset bit is the identity (45_skip R181). -/
def skipRows (c : Config) (t : List (List Word)) (ids : List Nat) : List Nat → Gen → Gen
  | [], g => g
  | k :: ks, g => skipRows c t ids ks (if idBit ids k then skipRow c (tableRow t k) g else g)

/-- skip(Y, ID) (45_skip R181): levels 0 to 3, bits 0 to 31 in each, so rows 0 to 127 in order. -/
def skipVector (c : Config) (t : List (List Word)) (ids : List Nat) (y : List Nat) : List Nat :=
  (skipRows c t ids (List.range 128) (excl0Gen c y)).v

/-- What a skip installs: its vector, with the EXCL0 checksum (45_skip R182). -/
def skipGen (c : Config) (t : List (List Word)) (ids : List Nat) (y : List Nat) : Gen :=
  excl0Gen c (skipVector c t ids y)

/-- SKIP (45_skip R183). SEEDED is 1 already, so `install` leaves it as it is. -/
def execSkip (s : State) : Result :=
  if s.seeded = true then
    if s.idsOk then
      match s.cfg.table with
      | none => raise .missingSkipTable s
      | some t => succeed (s.install (skipGen s.cfg t s.levelIds s.gen.v))
    else raise .operandRange s
  else raise .notSeeded s

/-- The packed vector of the fallback (45_skip R186). -/
def packedIds (c : Config) (cluster machine run stream : Nat) : List Nat :=
  [cluster, machine, run, stream,
   cluster <<< c.fbShifts.cluster, machine <<< c.fbShifts.machine,
   run <<< c.fbShifts.run, stream <<< c.fbShifts.stream] ++ List.replicate (c.n - 8) 0

/-- fallback(c, m, r, s), the direct-injection seeding (45_skip R186). -/
def fallbackGen (c : Config) (cluster machine run stream : Nat) : Gen :=
  iterateRaw c (iterateRaw c (excl0Gen c (packedIds c cluster machine run stream)))

/-- SEED_STREAM (45_skip R184, R185). -/
def execSeedStream (reqt : Bool) (s : State) : Result :=
  if s.idsOk then
    match s.cfg.table with
    | some t => succeed (s.install (skipGen s.cfg t s.levelIds (basisVector s.cfg.n 0)))
    | none =>
      if reqt = true then raise .missingSkipTable s
      else succeed (s.install (fallbackGen s.cfg s.arg0.toNat s.arg1.toNat s.arg2.toNat s.arg3.toNat))
  else raise .operandRange s

end Sys2Proof.Machine
end

