-- ==== Sys2Proof/Machine/Transfer.lean ====
section
/-! DEFINITION. State export, import and vector load (46_transfer): EXPORT, IMPORT, LOADV. -/

namespace Sys2Proof.Machine

/-- The words of the state record (46_transfer R200): N, cursor, checksum, V. -/
def State.exportWords (s : State) : List Word :=
  BitVec.ofNat 64 s.cfg.n :: s.cursor.setWidth 64 :: s.csum :: s.v

/-- EXPORT (46_transfer R201). -/
def execExport (s : State) : Result :=
  if s.seeded = true then
    if addressOk s.cfg s.arg0.toNat (recordWords s.cfg) then
      succeed { s with mem := s.portWrites s.arg0.toNat s.exportWords }
    else raise .addressError s
  else raise .notSeeded s

/-- The word writes a running EXPORT makes (20_memory R51): none where it fails. -/
def State.exportPlan (s : State) : List (Nat × Word) :=
  if s.seeded = true ∧ addressOk s.cfg s.arg0.toNat (recordWords s.cfg) then
    wordsAt s.arg0.toNat s.exportWords
  else []

/-- The N + 3 words IMPORT reads (46_transfer R202). -/
def State.importWords (s : State) : List Nat :=
  (s.portReads s.arg0.toNat (recordWords s.cfg)).map BitVec.toNat

/-- Every word of v is a residue in [0, p] (46_transfer R202, R205). -/
abbrev residues (v : List Nat) : Prop := ∀ x ∈ v, x ≤ mersBase

/-- IMPORT (46_transfer R202), over the words w[0], w[1], w[2] and w[3..N+3). -/
def execImport (s : State) : Result :=
  if addressOk s.cfg s.arg0.toNat (recordWords s.cfg) then
    let w := s.importWords
    if w.getD 0 0 = s.cfg.n then
      if residues (w.drop 3) then
        if w.getD 1 0 ≤ s.cfg.n then
          if w.getD 2 0 = csumExcl0 s.cfg.pReduce (w.drop 3) then
            succeed { s.install { v := w.drop 3, cs := w.getD 2 0 } with cursor := BitVec.ofNat 16 (w.getD 1 0) }
          else raise .importChecksumMismatch s
        else raise .importInvalidCursor s
      else raise .importOutOfRangeValue s
    else raise .importSizeMismatch s
  else raise .addressError s

/-- The N words LOADV reads (46_transfer R205). -/
def State.loadWords (s : State) : List Nat := (s.portReads s.arg0.toNat s.cfg.n).map BitVec.toNat

/-- LOADV (46_transfer R205). -/
def execLoadv (s : State) : Result :=
  if addressOk s.cfg s.arg0.toNat s.cfg.n then
    if residues s.loadWords then
      succeed (s.install { v := s.loadWords, cs := csumExcl0 s.cfg.pReduce s.loadWords })
    else raise .importOutOfRangeValue s
  else raise .addressError s

/-- The word addresses a running IMPORT or LOADV of `words` words reads (20_memory R51): none where its address check
fails. -/
def State.readPlan (s : State) (words : Nat) : List Nat :=
  if addressOk s.cfg s.arg0.toNat words then (List.range words).map fun k => s.arg0.toNat + 8 * k else []

end Sys2Proof.Machine
end

