-- ==== Sys2Proof/Machine/Dispatch.lean ====
section
/-! DEFINITION. The completion of a command (40_control R91, R92), one arm for each constructor of Instr. -/

namespace Sys2Proof.Machine

-- What the engine does at the completion of command i in state s.
def exec (i : Instr) (s : State) : Host.Outcome State Fault Refusal :=
  match i with
  | .nop => Sys2Proof.Machine.execNop s
  | .modadd => Sys2Proof.Machine.execModadd s
  | .modmul => Sys2Proof.Machine.execModmul s
  | .fmma => Sys2Proof.Machine.execFmma s
  | .reduce => Sys2Proof.Machine.execReduce s
  | .iterate => Sys2Proof.Machine.execIterate s
  | .iterateN => Sys2Proof.Machine.execIterateN s
  | .nextRaw => Sys2Proof.Machine.execNextRaw s
  | .nextUniform => Sys2Proof.Machine.execNextUniform s
  | .fillUniform => Sys2Proof.Machine.execFillUniform s
  | .seedBasis => Sys2Proof.Machine.execSeedBasis s
  | .seedLinear => Sys2Proof.Machine.execSeedLinear s
  | .recomputeCsum => Sys2Proof.Machine.execRecomputeCsum s
  | .seedStream reqt => Sys2Proof.Machine.execSeedStream reqt s
  | .skip => Sys2Proof.Machine.execSkip s
  | .exportState => Sys2Proof.Machine.execExport s
  | .importState => Sys2Proof.Machine.execImport s
  | .loadv => Sys2Proof.Machine.execLoadv s

end Sys2Proof.Machine
end

