-- ==== Sys2Proof/Machine/HostPort.lean ====
section
/-! DEFINITION. What the host and the platform do to the engine: register accesses (10_state R26 to R35), memory window
accesses with their races (20_memory R59, R60), and reset (70_reset R250 to R252). -/

namespace Sys2Proof.Machine

/-- The slots of the register window (10_state R33). -/
inductive HostReg where
  | cmd
  | status
  | config
  | nskip
  | arg0
  | arg1
  | arg2
  | arg3
  | result
  | specialC
  /-- offsets 0x50 to 0xF8 -/
  | reserved
deriving DecidableEq, Repr

/-- The register at a byte offset that is a multiple of 8 (10_state R33). -/
def regAt (offset : BitVec 8) : HostReg :=
  match offset.toNat with
  | 0x00 => .cmd
  | 0x08 => .status
  | 0x10 => .config
  | 0x18 => .nskip
  | 0x20 => .arg0
  | 0x28 => .arg1
  | 0x30 => .arg2
  | 0x38 => .arg3
  | 0x40 => .result
  | 0x48 => .specialC
  | _ => .reserved

/-- A register access the interface gives a meaning to: 64 bits at an 8-byte-aligned offset (10_state R34). -/
abbrev accessOk (width : Nat) (offset : BitVec 8) : Prop := width = 64 ∧ offset.toNat % 8 = 0

/-- What a read of a register returns (10_state R26 to R33). -/
def State.readReg (s : State) : HostReg → Word
  | .cmd => 0
  | .status => s.statusWord
  | .config => s.configWord
  | .nskip => s.nskip.setWidth 64
  | .arg0 => s.arg0
  | .arg1 => s.arg1
  | .arg2 => s.arg2
  | .arg3 => s.arg3
  | .result => s.result
  | .specialC => s.specialWord
  | .reserved => 0

/-- A write dropped because BUSY = 1: the register keeps its value and WERR is set (10_state R35). -/
def dropWrite (s : State) : State := { s with werr := true }

/-- The effect of a write of value x (10_state R26 to R35). -/
def State.writeReg (s : State) (x : Word) : HostReg → State
  | .cmd => if s.busy then dropWrite s else accept x s
  | .status => if x.getLsbD 3 then { s with werr := false } else s
  | .config => s
  | .nskip => if s.busy then dropWrite s else { s with nskip := x.setWidth 32 }
  | .arg0 => if s.busy then dropWrite s else { s with arg0 := x }
  | .arg1 => if s.busy then dropWrite s else { s with arg1 := x }
  | .arg2 => if s.busy then dropWrite s else { s with arg2 := x }
  | .arg3 => if s.busy then dropWrite s else { s with arg3 := x }
  | .result => s
  | .specialC => s
  | .reserved => s

/-- A value a host read returns joins what the host has observed. Log 20. -/
def State.observe (s : State) (x : Word) : State := { s with observed := x :: s.observed }

/-- A host register write (10_state R34). -/
def hostRegWrite (width : Nat) (offset : BitVec 8) (x : Word) (s : State) : Result :=
  if accessOk width offset then .next (s.writeReg x (regAt offset)) else .refused .hostRegisterAccess

/-- A host register read; it has no side effect on the engine (10_state R34). -/
def hostRegRead (width : Nat) (offset : BitVec 8) (s : State) : Result :=
  if accessOk width offset then .next (s.observe (s.readReg (regAt offset))) else .refused .hostRegisterAccess

/-- The word writes the running command makes at its completion (20_memory R51), none while idle. Log 11. -/
def State.writesInFlight (s : State) : List (Nat × Word) :=
  match s.running.map decode with
  | some (.ok .fillUniform) => s.fillPlan
  | some (.ok .exportState) => s.exportPlan
  | _ => []

/-- The word addresses the running command reads (20_memory R51), none while idle. Log 11. -/
def State.readsInFlight (s : State) : List Nat :=
  match s.running.map decode with
  | some (.ok .importState) => s.readPlan (recordWords s.cfg)
  | some (.ok .loadv) => s.readPlan s.cfg.n
  | _ => []

/-- The aligned words that the 8 bytes from address a touch. Log 13. -/
def touchedWords (a : Nat) : List Nat :=
  if a % 8 = 0 then [a] else [a / 8 * 8, a / 8 * 8 + 8]

/-- The memory a racing host read sees, and the count of draws after it: for each word it touches that the running
command writes, a free draw between the word in memory and the command's (20_memory R60). Log 8. -/
def raceView (writes : List (Nat × Word)) : List Nat → Memory → Nat → Memory × Nat
  | [], m, k => (m, k)
  | t :: ts, m, k =>
    match writes.lookup t with
    | none => raceView writes ts m k
    | some w => raceView writes ts (if Config.freeDraw k then m.writeWord t w else m) (k + 1)

/-- What a racing host write does to the words the running command reads: for each one it touches, a free draw whether
the command has read the old word already (20_memory R60). Log 9. -/
def raceLatch (m : Memory) (reads : List Nat) :
    List Nat → List (Nat × Word) → Nat → List (Nat × Word) × Nat
  | [], l, k => (l, k)
  | t :: ts, l, k =>
    if t ∈ reads ∧ (l.lookup t).isNone then
      raceLatch m reads ts (if Config.freeDraw k then (t, m.readWord t) :: l else l) (k + 1)
    else raceLatch m reads ts l k

/-- What a racing host write does to the words the running command writes: for each one it touches, a free draw
whether the host's value or the command's is left at completion (20_memory R60). Log 10. The draw is for the whole word
also where an unaligned write covers only some of its bytes, which the spec leaves open: DESIGN CHOICE, unsafe, log 30. -/
def raceKeep (writes : List (Nat × Word)) : List Nat → List Nat → Nat → List Nat × Nat
  | [], l, k => (l, k)
  | t :: ts, l, k =>
    if (writes.lookup t).isSome then
      raceKeep writes ts (if Config.freeDraw k then t :: l else l.filter (· ≠ t)) (k + 1)
    else raceKeep writes ts l k

/-- The window after a reset in the middle of a command: for each word the command was writing, a free draw between
the word in memory and the command's (70_reset R251). Log 12. -/
def raceReset : List (Nat × Word) → Memory → Nat → Memory × Nat
  | [], m, k => (m, k)
  | c :: ps, m, k => raceReset ps (if Config.freeDraw k then m.writeWord c.1 c.2 else m) (k + 1)

/-- The 8 bytes of a host access are inside the window (20_memory R50). -/
abbrev insideWindow (c : Config) (a : Word) : Prop := a.toNat + 8 ≤ c.memSize

/-- How many of the 8 bytes of a host access are inside the window (20_memory R50). Log 14. -/
def bytesInside (c : Config) (a : Word) : Nat := min 8 (c.memSize - a.toNat)

/-- MR: a host 64-bit read of the window (30_encoding R76, 20_memory R59, R60). A read that leaves the window is no MR:
what it returns is host memory the engine does not hold, so nothing is observed. Log 14. -/
def hostMemRead (a : Word) (s : State) : Result :=
  if insideWindow s.cfg a then
    let view := raceView s.writesInFlight (touchedWords a.toNat) s.mem s.draws
    .next ({ s with draws := view.2 }.observe (view.1.readWord a.toNat))
  else .next s

/-- MW: a host 64-bit write of the window (30_encoding R76, 20_memory R59, R60). A write beyond the window is no MW and
changes nothing here; one that straddles its end writes the bytes inside. Log 14. -/
def hostMemWrite (a x : Word) (s : State) : Result :=
  if s.cfg.memSize ≤ a.toNat then .next s
  else
    let l := raceLatch s.mem s.readsInFlight (touchedWords a.toNat) s.latched s.draws
    let k := raceKeep s.writesInFlight (touchedWords a.toNat) s.kept l.2
    .next { s with
      mem := s.mem.writeBytes a.toNat (bytesInside s.cfg a) x.toNat, latched := l.1, kept := k.1, draws := k.2 }

/-- Reset (70_reset R250 to R252): every register takes its reset value and a running command is abandoned; the window
keeps its contents but for the words of that command. What drives the model (host events, observations, the count of
draws) goes on. -/
def hardReset (s : State) : State :=
  let r := raceReset s.writesInFlight s.mem s.draws
  { State.resetWith s.cfg with mem := r.1, draws := r.2, host := s.host, observed := s.observed }

end Sys2Proof.Machine
end

