-- ==== Sys2Proof/Machine/Turn.lean ====
section
/-! DEFINITION. One turn of the engine and one turn of the host (40_control R90 to R93). -/

namespace Sys2Proof.Machine

/-- The engine's turn: a running command completes (40_control R91 to R93), an illegal word with IllegalCommand
(30_encoding R72); an idle engine keeps all its state (60_exceptions R235). -/
def engineTurn (s : State) : Result :=
  match s.running with
  | none => .next s
  | some w =>
    match decode w with
    | .ok i => exec i s
    | .error _ => raise .illegalCommand s

/-- The turn of one host event. -/
def hostTurn (ev : HostEvent) (s : State) : Result :=
  match ev with
  | .regWrite width offset value => hostRegWrite width offset value s
  | .regRead width offset => hostRegRead width offset s
  | .memWrite addr value => hostMemWrite addr value s
  | .memRead addr => hostMemRead addr s
  | .reset => .next (hardReset s)
  | .engineTurn => engineTurn s

/-- The command word w latched and no host event before its completion: the engine runs it at its next turn. -/
def latchCommand (w : Word) (s : State) : State := { accept w s with host := [] }

end Sys2Proof.Machine
end

