-- ==== Sys2Proof/Machine/Step.lean ====
section
/-! DEFINITION. One step of the machine: the next host event where there is one, else the engine's turn (40_control
R91, R93; log 6). -/

namespace Sys2Proof.Machine

/-- One step. A configuration outside its ranges, or with a memory window that has read side effects, is refused
(60_exceptions R236). -/
def step (s : State) : Host.Outcome State Fault Refusal :=
  if s.cfg.wf then
    if s.cfg.window = .ordinary then
      match s.host with
      | [] => engineTurn s
      | ev :: rest => hostTurn ev { s with host := rest }
    else .refused .windowWithSideEffects
  else .refused .illegalConfiguration

/-- s with the nbits-bit command word w accepted and no host event before its completion, so that the very next step
runs it. The engine fetches nothing (10_state R36): this stands for the host's write of w to CMD. Log 6. -/
def State.withFetchWord (s : State) (nbits w : Nat) : State :=
  latchCommand (BitVec.ofNat 64 (w % 2 ^ nbits)) s

end Sys2Proof.Machine
end

