-- ==== Sys2Proof/Machine/HostProgram.lean ====
section
/-! DEFINITION. Host statements and pseudo-statements (30_encoding R76, R77) as lists of host events. A host program's
own control flow is the host's (R76), so a program here is one straight run of statements. When a command started by a
bare WR CMD completes relative to the statements after it is free in the spec (40_control R93); here the program says
where, by `HostStmt.completion` or, at the latest, by its next WAIT: DESIGN CHOICE, safe, log 29. -/

namespace Sys2Proof.Machine

/-- The byte offset of a register (10_state R33); 0x50 stands for the reserved slots. -/
def HostReg.offset : HostReg → BitVec 8
  | .cmd => 0x00
  | .status => 0x08
  | .config => 0x10
  | .nskip => 0x18
  | .arg0 => 0x20
  | .arg1 => 0x28
  | .arg2 => 0x30
  | .arg3 => 0x38
  | .result => 0x40
  | .specialC => 0x48
  | .reserved => 0x50

/-- A host statement (30_encoding R76, R77). -/
inductive HostStmt where
  /-- WR reg, value -/
  | wr (reg : HostReg) (value : Word)
  /-- RD reg -> name -/
  | rd (reg : HostReg)
  /-- WAIT, in a run that polls `polls` times while BUSY = 1 and once more after the command has completed. Log 25. -/
  | wait (polls : Nat)
  /-- No statement of the spec: the point of the run at which a command started by a bare WR CMD completes; nothing
  where none runs. Log 29. -/
  | completion
  /-- MW address, value -/
  | mw (addr value : Word)
  /-- MR address -> name -/
  | mr (addr : Word)
  /-- A command with the operands given, its ARG writes first and its WAIT last. -/
  | command (i : Instr) (operands : List Word) (polls : Nat)
  /-- The same with `-> x`: RD RESULT after the WAIT. -/
  | commandTo (i : Instr) (operands : List Word) (polls : Nat)
  /-- SETSKIP k -/
  | setskip (k : Word)
  /-- GETSKIP -> x -/
  | getskip
deriving DecidableEq, Repr

/-- WR reg, value (30_encoding R76). -/
def wrEvent (reg : HostReg) (value : Word) : HostEvent := .regWrite 64 reg.offset value

/-- RD reg (30_encoding R76). -/
def rdEvent (reg : HostReg) : HostEvent := .regRead 64 reg.offset

/-- WAIT: STATUS reads until BUSY = 0 (30_encoding R76). Log 25. -/
def waitEvents (polls : Nat) : List HostEvent :=
  List.replicate polls (rdEvent .status) ++ [.engineTurn, rdEvent .status]

/-- The ARG writes of a command, for each operand given (30_encoding R76). -/
def operandEvents (operands : List Word) : List HostEvent :=
  List.zipWith wrEvent [.arg0, .arg1, .arg2, .arg3] operands

/-- A command: its ARG writes, its CMD write, its WAIT (30_encoding R76, R77). -/
def commandEvents (i : Instr) (operands : List Word) (polls : Nat) : List HostEvent :=
  operandEvents operands ++ [wrEvent .cmd (encode i)] ++ waitEvents polls

/-- The host events of a statement (30_encoding R76, R77). -/
def HostStmt.expand : HostStmt → List HostEvent
  | .wr reg value => [wrEvent reg value]
  | .rd reg => [rdEvent reg]
  | .wait polls => waitEvents polls
  | .completion => [.engineTurn]
  | .mw addr value => [.memWrite addr value]
  | .mr addr => [.memRead addr]
  | .command i operands polls => commandEvents i operands polls
  | .commandTo i operands polls => commandEvents i operands polls ++ [rdEvent .result]
  | .setskip k => [wrEvent .nskip k]
  | .getskip => [rdEvent .nskip]

/-- The host events of a program (30_encoding R76). A command started by `.wr .cmd` completes at the program's next
`.completion` or WAIT, or after the program: 40_control R93 leaves the place free, and the choice of the place among the
statements is the program's own (so both outcomes of 95_test_vectors P7 are programs). DESIGN CHOICE, safe, log 29. -/
def programEvents (prog : List HostStmt) : List HostEvent := prog.flatMap HostStmt.expand

end Sys2Proof.Machine
end

