-- ==== Sys2Proof/Safety.lean ====
section
/-! DEFINITION. The terms in which claims about the machine are stated: its invariants (10_state R22 to R24), when a
step has a meaning (60_exceptions R236), and the mathematics the spec's derived rules speak of (42_iteration R127,
43_extraction R144, R146). Nothing here is used by the machine. -/

namespace Sys2Proof.Machine

/-- The invariants every step keeps. -/
structure EngineInv (s : State) : Prop where
  /-- The configuration is legal (00_scope R6 to R11). -/
  cfgLegal : s.cfg.wf
  /-- V has N elements (10_state R21). -/
  vLength : s.v.length = s.cfg.n
  /-- I2: every element of V is in [0, p] (10_state R22). -/
  vResidues : ∀ w ∈ s.v, w.toNat ≤ mersBase
  /-- CSUM is in [0, p] (10_state R23). -/
  csumResidue : s.csum.toNat ≤ mersBase
  /-- I3: CURSOR is in [0, N] (10_state R24). -/
  cursorRange : s.cursor.toNat ≤ s.cfg.n
  /-- The memory is in its canonical form. -/
  memCanonical : s.mem.wf
  /-- Memory exists in the window only (20_memory R50). -/
  memWithin : s.mem.within s.cfg.memSize
  /-- ERR says whether ERRCODE reports an error (10_state R31, 40_control R92). -/
  errMatches : s.err = true ↔ s.errcode ≠ 0
  /-- Codes 12 to 255 are never produced (60_exceptions R220). -/
  errcodeRange : s.errcode.toNat ≤ 11
  /-- ERR is 0 from acceptance to completion (40_control R90). -/
  busyClean : s.busy = true → s.err = false
  /-- No race is in progress while the engine is idle (20_memory R60). -/
  idleClean : s.busy = false → s.latched = [] ∧ s.kept = []

/-- CSUM follows the EXCL0 convention (10_state R23). -/
def csumIsExcl0 (s : State) : Prop := s.csum.toNat = csumExcl0 s.cfg.pReduce s.gen.v

/-- CSUM follows the FULL convention (10_state R23). -/
def csumIsFull (s : State) : Prop := s.csum.toNat = csumFull s.cfg.pReduce s.gen.v

/-- I1 as the spec restates it: a seeded engine's CSUM follows EXCL0, or FULL in a P_SL_CSUM = FULL build
(10_state R23, 90_conflicts C1). -/
def csumConvention (s : State) : Prop :=
  s.seeded = true → csumIsExcl0 s ∨ (s.cfg.slCsum = .full ∧ csumIsFull s)

/-- A host event that has a meaning: a register access is 64-bit and aligned (10_state R34); every other event has one
(60_exceptions R236). -/
def eventOk : HostEvent → Prop
  | .regWrite width offset _ => accessOk width offset
  | .regRead width offset => accessOk width offset
  | .memWrite _ _ => True
  | .memRead _ => True
  | .reset => True
  | .engineTurn => True

/-- A configuration the model gives a meaning to (60_exceptions R236). -/
def runnable (c : Config) : Prop := c.wf ∧ c.window = .ordinary

/-- A safe run from s: the configuration has a meaning and so has every host event still to happen. -/
def safeRun (s : State) : Prop := runnable s.cfg ∧ ∀ ev ∈ s.host, eventOk ev

/-- The element A[i][l] of the recurrence matrix (42_iteration R127), with `special` = c where SPECIAL_C = c and 0
where it is none. -/
def recurrenceMatrix (special i l : Nat) : Nat :=
  (if i = 0 ∨ l = 0 ∨ i < l then 1 else i - l + 2) + (if i = 2 ∧ l = 1 then special else 0)

/-- The value of SPECIAL_C as it enters the recurrence matrix (42_iteration R127). -/
def specialValue (c : Config) : Nat := (c.specialC.map BitVec.toNat).getD 0

/-- One application of the N×N recurrence matrix to a vector of natural numbers (42_iteration R127). -/
def matVec (c : Config) (y : Nat → Nat) (i : Nat) : Nat :=
  ∑ l ∈ Finset.range c.n, recurrenceMatrix (specialValue c) i l * y l

/-- The elements of a list as a function of the index. -/
def elementOf (v : List Nat) (i : Nat) : Nat := v.getD i 0

/-- The polynomial Σ_j w[j]·A^j in the recurrence matrix A, applied to a vector (45_skip R187). -/
def rowPolynomial (c : Config) (row : List Nat) (y : Nat → Nat) (i : Nat) : Nat :=
  ∑ j ∈ Finset.range c.n, elementOf row j * (matVec c)^[j] y i

/-- The table rows that the set bits of an ID select, in the order a skip takes them: levels 0 to 3, bits 0 to 31 in each
(45_skip R180, R181). -/
def selectedRows (ids : List Nat) : List Nat :=
  (List.range 4).flatMap fun l => ((List.range 32).filter fun r => (ids.getD l 0).testBit r).map fun r => r + 32 * l

/-- The rational number that a finite binary64 encoding stands for (IEEE 754; 93_implementation_defined part 2). -/
def binary64Value (w : Word) : ℚ :=
  (if w.getLsbD 63 then -1 else 1) *
    (if w.extractLsb' 52 11 = 0 then ((w.extractLsb' 0 52).toNat : ℚ) * 2 ^ (-1074 : ℤ)
     else (2 ^ 52 + (w.extractLsb' 0 52).toNat : ℚ) * 2 ^ (((w.extractLsb' 52 11).toNat : ℤ) - 1075))

/-- The results of k NEXT_UNIFORM commands in a row and the state they leave (43_extraction R146). -/
def uniformDraws : Nat → State → Option (List Word × State)
  | 0, s => some ([], s)
  | k + 1, s =>
    match exec .nextUniform s with
    | .next t => (uniformDraws k t).map fun r => (t.result :: r.1, r.2)
    | _ => none

/-- The commands that read V, CSUM or CURSOR, so need SEEDED (60_exceptions R220, code 11). -/
def needsSeed : Instr → Bool
  | .iterate | .iterateN | .nextRaw | .nextUniform | .fillUniform | .recomputeCsum | .skip | .exportState => true
  | .nop | .modadd | .modmul | .fmma | .reduce | .seedBasis | .seedLinear | .seedStream _ | .importState
  | .loadv => false

/-- The commands that build a state (10_state R25, 46_transfer R206). -/
def buildsState : Instr → Bool
  | .seedBasis | .seedLinear | .seedStream _ | .importState | .loadv => true
  | .nop | .modadd | .modmul | .fmma | .reduce | .iterate | .iterateN | .nextRaw | .nextUniform | .fillUniform
  | .recomputeCsum | .skip | .exportState => false

/-- The commands that write RESULT (10_state R30). -/
def writesResult : Instr → Bool
  | .modadd | .modmul | .fmma | .reduce | .nextRaw | .nextUniform => true
  | .nop | .iterate | .iterateN | .fillUniform | .seedBasis | .seedLinear | .recomputeCsum | .seedStream _
  | .skip | .exportState | .importState | .loadv => false

/-- The commands that write the memory window (20_memory R51). -/
def writesMemory : Instr → Bool
  | .fillUniform | .exportState => true
  | .nop | .modadd | .modmul | .fmma | .reduce | .iterate | .iterateN | .nextRaw | .nextUniform | .seedBasis
  | .seedLinear | .recomputeCsum | .seedStream _ | .skip | .importState | .loadv => false

/-- The errors each command can report, in the order it checks them (60_exceptions R220, R221). -/
def errorsOf : Instr → List ErrCause
  | .nop => []
  | .modadd | .modmul | .fmma | .reduce => [.operandRange]
  | .iterate | .nextRaw | .nextUniform | .recomputeCsum => [.notSeeded]
  | .iterateN => [.notSeeded, .operandRange]
  | .fillUniform => [.notSeeded, .operandRange, .addressError]
  | .seedBasis => [.invalidIndex]
  | .seedLinear => [.zeroSeed]
  | .seedStream reqt => if reqt then [.operandRange, .missingSkipTable] else [.operandRange]
  | .skip => [.notSeeded, .operandRange, .missingSkipTable]
  | .exportState => [.notSeeded, .addressError]
  | .importState =>
    [.addressError, .importSizeMismatch, .importOutOfRangeValue, .importInvalidCursor, .importChecksumMismatch]
  | .loadv => [.addressError, .importOutOfRangeValue]

end Sys2Proof.Machine
end

