-- ==== Sys2Proof/Certificates/Slice0/Obligations.lean ====
section
/-! DEFINITION. The statements about the model, for the provers. Each cites the rule it formalises; OBLIGATIONS.json
lists them. `completed s'` and `failed e s` are the completions of 40_control R92: every field but those a statement
writes in s' is that of s, except BUSY (`running`), ERR, ERRCODE and the race records, which a completion clears. -/

open Sys2Proof Sys2Proof.Machine

/-! ### Encoding -/

/-- R78: the spec's own example words, their decoding and the outcome of the illegal ones. -/
def Obligations.SpecExampleWordsDecode : Prop :=
  encode (.seedStream true) = 0x133 ∧ decode 0x133 = .ok (.seedStream true) ∧
  encode (.seedStream false) = 0x33 ∧ decode 0x33 = .ok (.seedStream false) ∧
  encode .fillUniform = 0x22 ∧ decode 0x22 = .ok .fillUniform ∧
  ∀ w ∈ ([0x122, 0x5, 0x8000000000000001] : List Word), ∀ s : State, s.running = some w →
    engineTurn s = .next (failed .illegalCommand s)

/-- R72: which words are legal; an illegal word is accepted like any other and completes with IllegalCommand. -/
def Obligations.LegalWordsAreDecoded : Prop :=
  ∀ w : Word,
    ((∃ i, decode w = .ok i) ↔
      w.extractLsb' 0 8 ∈ assignedOpcodes ∧ w.extractLsb' 9 55 = 0 ∧
        (w.getLsbD 8 = true → w.extractLsb' 0 8 = 0x33)) ∧
    (∀ s : State, s.busy = false → s.writeReg w .cmd = accept w s) ∧
    ((¬ ∃ i, decode w = .ok i) → ∀ s : State, s.running = some w →
      engineTurn s = .next (failed .illegalCommand s))

/-- R70, R71: decode and encode agree on every command and on every word. -/
def Obligations.DecodeEncodeAgree : Prop :=
  (∀ i : Instr, decode (encode i) = .ok i) ∧ ∀ (w : Word) (i : Instr), decode w = .ok i → encode i = w

/-! ### The step and the lifecycle of a command -/

/-- R72, R91 to R93: the engine's turn runs the decoded command of the latched word, and completes an illegal word with
IllegalCommand; an idle engine stays as it is. The list
of host events, and what `withFetchWord` stands for, are the model's choice (log 6). -/
def Obligations.StepRunsDecodedCommand : Prop :=
  ∀ s : State, runnable s.cfg → ∀ rest : List HostEvent,
    (s.host = [] → ∀ w i, s.running = some w → decode w = .ok i → step s = exec i s) ∧
    (s.host = .engineTurn :: rest → ∀ w i, s.running = some w → decode w = .ok i →
      step s = exec i { s with host := rest }) ∧
    (s.host = [] → ∀ w, s.running = some w → (¬ ∃ i, decode w = .ok i) →
      step s = .next (failed .illegalCommand s)) ∧
    (s.host = .engineTurn :: rest → ∀ w, s.running = some w → (¬ ∃ i, decode w = .ok i) →
      step s = .next (failed .illegalCommand { s with host := rest })) ∧
    (s.host = [] → s.running = none → step s = .next s) ∧
    (∀ i, step (s.withFetchWord 64 (encode i).toNat) = exec i (latchCommand (encode i) s))

/-- R90: a CMD write while BUSY = 0 latches the word and clears ERR and ERRCODE. -/
def Obligations.CommandAcceptance : Prop :=
  ∀ (s : State) (w : Word) (rest : List HostEvent), runnable s.cfg → s.host = .regWrite 64 0x00 w :: rest →
    s.busy = false →
    ∃ t, step s = .next t ∧ t.busy = true ∧
      t = { s with host := rest, running := some w, err := false, errcode := 0, latched := [], kept := [] }

/-- R35: writes to CMD, NSKIP and the arguments are dropped while BUSY = 1. -/
def Obligations.BusyWritesAreDropped : Prop :=
  ∀ (s : State) (offset : BitVec 8) (x : Word) (rest : List HostEvent), runnable s.cfg →
    s.host = .regWrite 64 offset x :: rest → s.busy = true →
    offset ∈ ([0x00, 0x18, 0x20, 0x28, 0x30, 0x38] : List (BitVec 8)) →
    step s = .next { s with host := rest, werr := true }

/-- R26, R29, R31: writes to NSKIP and the arguments while BUSY = 0, and to STATUS at any time: bit 3 clears WERR and
every other bit is ignored. -/
def Obligations.RegisterWritesTakeEffect : Prop :=
  ∀ (s : State) (x : Word) (rest : List HostEvent), runnable s.cfg →
    (s.busy = false → s.host = .regWrite 64 0x18 x :: rest →
      step s = .next { s with host := rest, nskip := BitVec.ofNat 32 (x.toNat % 2 ^ 32) }) ∧
    (s.busy = false → s.host = .regWrite 64 0x20 x :: rest → step s = .next { s with host := rest, arg0 := x }) ∧
    (s.busy = false → s.host = .regWrite 64 0x28 x :: rest → step s = .next { s with host := rest, arg1 := x }) ∧
    (s.busy = false → s.host = .regWrite 64 0x30 x :: rest → step s = .next { s with host := rest, arg2 := x }) ∧
    (s.busy = false → s.host = .regWrite 64 0x38 x :: rest → step s = .next { s with host := rest, arg3 := x }) ∧
    (s.host = .regWrite 64 0x08 x :: rest → x.getLsbD 3 = true → step s = .next { s with host := rest, werr := false }) ∧
    (s.host = .regWrite 64 0x08 x :: rest → x.getLsbD 3 = false → step s = .next { s with host := rest })

/-- R34: accesses that are not 64-bit and aligned are refused; writes to read-only and reserved registers change
nothing; a read has no side effect. -/
def Obligations.RegisterAccessContract : Prop :=
  ∀ (s : State) (width : Nat) (offset : BitVec 8) (x : Word) (rest : List HostEvent), runnable s.cfg →
    (width ≠ 64 ∨ offset.toNat % 8 ≠ 0 →
      (s.host = .regWrite width offset x :: rest → step s = .refused .hostRegisterAccess) ∧
      (s.host = .regRead width offset :: rest → step s = .refused .hostRegisterAccess)) ∧
    (s.host = .regWrite 64 offset x :: rest → offset.toNat % 8 = 0 →
      offset ∈ ([0x10, 0x40, 0x48] : List (BitVec 8)) ∨ 0x50 ≤ offset.toNat →
      step s = .next { s with host := rest }) ∧
    (s.host = .regRead 64 offset :: rest → offset.toNat % 8 = 0 →
      ∃ y, step s = .next { s with host := rest, observed := y :: s.observed })

/-- R27, R28, R31, R33: what a read of each register returns; STATUS and CONFIG as the sums of their fields. -/
def Obligations.RegisterReadValues : Prop :=
  ∀ (s : State) (offset : BitVec 8) (rest : List HostEvent), runnable s.cfg →
    s.host = .regRead 64 offset :: rest → offset.toNat % 8 = 0 →
    ∃ y : Word, step s = .next { s with host := rest, observed := y :: s.observed } ∧
      (offset = 0x00 → y = 0) ∧
      (offset = 0x08 → y.toNat = s.busy.toNat + 2 * s.err.toNat + 4 * s.seeded.toNat + 8 * s.werr.toNat +
        2 ^ 8 * s.errcode.toNat) ∧
      (offset = 0x10 → y.toNat = s.cfg.n + 2 ^ 16 * 61 + 2 ^ 24 * s.cfg.table.isSome.toNat +
        2 ^ 25 * s.cfg.specialC.isSome.toNat + 2 ^ 26 * (if s.cfg.pReduce = .canonical then 1 else 0) +
        2 ^ 27 * (if s.cfg.slCsum = .excl0 then 1 else 0)) ∧
      (offset = 0x18 → y.toNat = s.nskip.toNat) ∧
      (offset = 0x20 → y = s.arg0) ∧ (offset = 0x28 → y = s.arg1) ∧
      (offset = 0x30 → y = s.arg2) ∧ (offset = 0x38 → y = s.arg3) ∧
      (offset = 0x40 → y = s.result) ∧
      (offset = 0x48 → y.toNat = specialValue s.cfg) ∧
      (0x50 ≤ offset.toNat → y = 0)

/-- R27: the fields of CONFIG, that it is constant, and the spec's example. -/
def Obligations.ConfigRegister : Prop :=
  (∀ s : State, s.cfg.wf →
    (s.readReg .config).toNat = s.cfg.n + 2 ^ 16 * 61 + 2 ^ 24 * s.cfg.table.isSome.toNat +
      2 ^ 25 * s.cfg.specialC.isSome.toNat + 2 ^ 26 * (if s.cfg.pReduce = .canonical then 1 else 0) +
      2 ^ 27 * (if s.cfg.slCsum = .excl0 then 1 else 0)) ∧
  (∀ s t : State, step s = .next t → t.readReg .config = s.readReg .config) ∧
  (State.resetWith Config.tc8).readReg .config = 0x00000000003D0008

/-- R20, R26, R29, R39, R51: no command changes the configuration, NSKIP, the arguments or WERR; only FILL_UNIFORM and
EXPORT write the memory window; and no step changes the configuration. -/
def Obligations.CommandFrame : Prop :=
  (∀ (i : Instr) (s t : State), exec i s = .next t →
    t.cfg = s.cfg ∧ t.nskip = s.nskip ∧ t.arg0 = s.arg0 ∧ t.arg1 = s.arg1 ∧ t.arg2 = s.arg2 ∧
      t.arg3 = s.arg3 ∧ t.werr = s.werr ∧ (writesMemory i = false → t.mem = s.mem)) ∧
  ∀ s t : State, step s = .next t → t.cfg = s.cfg

/-- R30: RESULT is written only at the successful completion of the six commands that return a scalar (and by
reset). -/
def Obligations.ResultWrittenOnlyByScalarCommands : Prop :=
  (∀ s t : State, step s = .next t → t.result ≠ s.result →
    (∃ rest, s.host = .reset :: rest) ∨
      ∃ w i, s.running = some w ∧ decode w = .ok i ∧ writesResult i = true ∧ t.busy = false ∧ t.err = false) ∧
  (∀ s : State, s.busy = true → s.readReg .result = s.result) ∧
  ∀ c : Config, (State.resetWith c).result = 0

/-- R93: a safe schedule of host events ends with the engine idle. The list of host events is the model's choice
(log 6). -/
def Obligations.SafeScheduleEndsIdle : Prop :=
  ∀ s : State, safeRun s →
    ∃ t, Host.Core.run Sys2Proof.core (s.host.length + 1) s = .next t ∧ t.busy = false ∧ t.host = []

/-- R34, R56, R236: exactly when a step has a meaning, and the name of every stop: the three refusals of R236, in the
order the model looks for them. Refusing at the step is the model's choice (logs 15 to 17). -/
def Obligations.StepStopsExactlyWhere : Prop :=
  ∀ s : State,
    ((∃ t, step s = .next t) ↔ runnable s.cfg ∧ ∀ ev, s.host.head? = some ev → eventOk ev) ∧
    (¬ s.cfg.wf → step s = .refused .illegalConfiguration) ∧
    (s.cfg.wf → s.cfg.window = .readSideEffects → step s = .refused .windowWithSideEffects) ∧
    (runnable s.cfg → ∀ (width : Nat) (offset : BitVec 8) (x : Word), width ≠ 64 ∨ offset.toNat % 8 ≠ 0 →
      s.host.head? = some (.regWrite width offset x) ∨ s.host.head? = some (.regRead width offset) →
      step s = .refused .hostRegisterAccess) ∧
    (∀ r, step s = .refused r →
      r = .illegalConfiguration ∨ r = .windowWithSideEffects ∨ r = .hostRegisterAccess)

/-- R94: NOP. -/
def Obligations.NopResult : Prop :=
  encode .nop = 0 ∧
  ∀ s : State,
    exec .nop s = .next { s with running := none, err := false, errcode := 0, latched := [], kept := [] }

/-! ### The modular arithmetic kernel -/

/-- R100: the fold, for every number and so for every 64-bit one: it keeps the residue class, and on [0, 2p] lands in
[0, p] and gives 0 for 0 only. -/
def Obligations.FoldLaw : Prop :=
  ∀ k : Nat, fold k = k % 2 ^ 61 + k / 2 ^ 61 ∧ fold k ≡ k [MOD mersBase] ∧
    (k ≤ 2 * mersBase → fold k ≤ mersBase ∧ (fold k = 0 ↔ k = 0))

/-- R103, R114: reduce128 is red on D, in both modes, with its consequences, and the bound on the first fold behind
it. -/
def Obligations.ReductionIsRed : Prop :=
  ∀ s : Nat, s ≤ mersBase * (mersBase + 1) →
    (∀ m : ReduceMode, reduce128 m s = red m s ∧ reduce128 m s ≤ mersBase ∧ reduce128 m s ≡ s [MOD mersBase]) ∧
    (reduce128 .lazy s = 0 ↔ s = 0) ∧
    (reduce128 .lazy s = mersBase ↔ 0 < s ∧ mersBase ∣ s) ∧
    reduce128 .canonical s ≠ mersBase ∧
    s / 2 ^ 64 ≤ 2 ^ 58 - 1 ∧ foldWide s ≤ 2 * mersBase ∧ foldWide s ≡ s [MOD mersBase] ∧
    (foldWide s = 0 ↔ s = 0) ∧ fold (foldWide s) = red .lazy s

/-- R107, R108: the checksums are red of the exact sums. -/
def Obligations.ChecksumsAreRedOfSum : Prop :=
  ∀ (m : ReduceMode) (v : List Nat), (∀ x ∈ v, x ≤ mersBase) →
    csumFull m v = red m v.sum ∧ csumExcl0 m v = red m v.tail.sum

/-- R104, R109: MODADD. -/
def Obligations.ModaddResult : Prop :=
  encode .modadd = 0x01 ∧
  ∀ s : State,
    (s.arg0.toNat ≤ mersBase → s.arg1.toNat ≤ mersBase →
      exec .modadd s = .next (completed { s with
        result := BitVec.ofNat 64 (red s.cfg.pReduce (s.arg0.toNat + s.arg1.toNat)) })) ∧
    (mersBase < s.arg0.toNat ∨ mersBase < s.arg1.toNat → exec .modadd s = .next (failed .operandRange s))

/-- R105, R110: MODMUL. -/
def Obligations.ModmulResult : Prop :=
  encode .modmul = 0x02 ∧
  ∀ s : State,
    (s.arg0.toNat ≤ mersBase → s.arg1.toNat ≤ mersBase →
      exec .modmul s = .next (completed { s with
        result := BitVec.ofNat 64 (red s.cfg.pReduce (s.arg0.toNat * s.arg1.toNat)) })) ∧
    (mersBase < s.arg0.toNat ∨ mersBase < s.arg1.toNat → exec .modmul s = .next (failed .operandRange s))

/-- R106, R111: FMMA. -/
def Obligations.FmmaResult : Prop :=
  encode .fmma = 0x03 ∧
  ∀ s : State,
    (s.arg0.toNat ≤ mersBase → s.arg1.toNat ≤ mersBase → s.arg2.toNat ≤ mersBase →
      exec .fmma s = .next (completed { s with
        result := BitVec.ofNat 64 (red s.cfg.pReduce (s.arg0.toNat + s.arg1.toNat * s.arg2.toNat)) })) ∧
    (mersBase < s.arg0.toNat ∨ mersBase < s.arg1.toNat ∨ mersBase < s.arg2.toNat →
      exec .fmma s = .next (failed .operandRange s))

/-- R112: REDUCE. -/
def Obligations.ReduceResult : Prop :=
  encode .reduce = 0x04 ∧
  ∀ s : State,
    (s.arg1.toNat * 2 ^ 64 + s.arg0.toNat ≤ 2 ^ 122 - 2 ^ 61 →
      exec .reduce s = .next (completed { s with
        result := BitVec.ofNat 64 (red s.cfg.pReduce (s.arg1.toNat * 2 ^ 64 + s.arg0.toNat)) })) ∧
    (2 ^ 122 - 2 ^ 61 < s.arg1.toNat * 2 ^ 64 + s.arg0.toNat → exec .reduce s = .next (failed .operandRange s))

/-! ### The iteration engine -/

/-- R120, R121: every element of the vector after a raw iteration, bit for bit, as red of an exact sum. -/
def Obligations.IterateRawClosedForm : Prop :=
  ∀ (c : Config) (g : Gen), c.wf → g.v.length = c.n → (∀ x ∈ g.v, x ≤ mersBase) → g.cs ≤ mersBase →
    (iterateRaw c g).v.length = c.n ∧
    ∀ i < c.n, elementOf (iterateRaw c g).v i =
      red c.pReduce (elementOf g.v 0 + g.cs +
        (∑ l ∈ Finset.range i, (i - l) * elementOf g.v (l + 1)) +
        (if i = 2 then specialValue c * elementOf g.v 1 else 0))

/-- R125: the checksum a raw iteration returns is csum_excl0 of the new vector, bit for bit, whatever the old checksum
was. -/
def Obligations.RawIterationRestoresExcl0 : Prop :=
  ∀ (c : Config) (g : Gen), c.wf → g.v.length = c.n → (∀ x ∈ g.v, x ≤ mersBase) → g.cs ≤ mersBase →
    (iterateRaw c g).cs = csumExcl0 c.pReduce (iterateRaw c g).v

/-- R126: every carry and the SPECIAL correction are at most p, and the running total stays inside the domain of the
reduction. -/
def Obligations.RunningTotalFits : Prop :=
  ∀ (c : Config) (g : Gen), c.wf → g.v.length = c.n → (∀ x ∈ g.v, x ≤ mersBase) → g.cs ≤ mersBase →
    (∀ x ∈ (iterSweep c.pReduce g).1, x ≤ mersBase) ∧ specialCorr c g ≤ mersBase ∧
    iterTotal c g ≤ c.n * mersBase ∧ c.n * mersBase < 2 ^ 77 ∧ iterTotal c g ≤ mersBase * (mersBase + 1)

/-- R127: modulo p a raw iteration is the recurrence matrix, when the checksum is that of V[1..N); its first element
is V[0] + cs in any case. -/
def Obligations.RawIterationIsRecurrenceMatrix : Prop :=
  ∀ (c : Config) (g : Gen), c.wf → g.v.length = c.n → (∀ x ∈ g.v, x ≤ mersBase) → g.cs ≤ mersBase →
    (g.cs ≡ g.v.tail.sum [MOD mersBase] →
      ∀ i < c.n, elementOf (iterateRaw c g).v i ≡ matVec c (elementOf g.v) i [MOD mersBase]) ∧
    elementOf (iterateRaw c g).v 0 ≡ elementOf g.v 0 + g.cs [MOD mersBase]

/-- R128: under LAZY the zero state is a fixed point, and where V[0] + cs is positive every element after a raw iteration
is; so it is of every vector but zero whose checksum follows EXCL0 or FULL. Under CANONICAL an element is 0 exactly when
its residue is. -/
def Obligations.ZeroFixedPointAndPositivity : Prop :=
  ∀ (c : Config) (g : Gen), c.wf → g.v.length = c.n → (∀ x ∈ g.v, x ≤ mersBase) → g.cs ≤ mersBase →
    (c.pReduce = .lazy → (∀ x ∈ g.v, x = 0) → g.cs = 0 → iterateRaw c g = g) ∧
    (c.pReduce = .lazy → 0 < elementOf g.v 0 + g.cs → ∀ x ∈ (iterateRaw c g).v, 1 ≤ x) ∧
    (c.pReduce = .lazy → g.cs = csumExcl0 .lazy g.v ∨ g.cs = csumFull .lazy g.v → (∃ x ∈ g.v, x ≠ 0) →
      ∀ x ∈ (iterateRaw c g).v, 1 ≤ x) ∧
    (c.pReduce = .canonical → ∀ x ∈ (iterateRaw c g).v, x = 0 ↔ x ≡ 0 [MOD mersBase])

/-- R122, R123: ITERATE. -/
def Obligations.IterateResult : Prop :=
  encode .iterate = 0x10 ∧
  ∀ s : State,
    (s.seeded = true →
      exec .iterate s = .next (completed { s with
        v := storedV ((iterateRaw s.cfg)^[s.nskip.toNat + 1] s.gen).v,
        csum := BitVec.ofNat 64 ((iterateRaw s.cfg)^[s.nskip.toNat + 1] s.gen).cs })) ∧
    (s.seeded = false → exec .iterate s = .next (failed .notSeeded s))

/-- R124: ITERATE_N. -/
def Obligations.IterateNResult : Prop :=
  encode .iterateN = 0x11 ∧
  ∀ s : State,
    (s.seeded = true → s.arg0.toNat < 2 ^ 32 →
      exec .iterateN s = .next (completed { s with
        v := storedV ((iterateRaw s.cfg)^[s.arg0.toNat] s.gen).v,
        csum := BitVec.ofNat 64 ((iterateRaw s.cfg)^[s.arg0.toNat] s.gen).cs })) ∧
    (s.seeded = true → s.arg0 = 0 → exec .iterateN s = .next (completed s)) ∧
    (s.seeded = true → s.arg0.toNat = s.nskip.toNat + 1 → s.arg0.toNat < 2 ^ 32 →
      exec .iterateN s = exec .iterate s) ∧
    (s.seeded = false → exec .iterateN s = .next (failed .notSeeded s)) ∧
    (s.seeded = true → 2 ^ 32 ≤ s.arg0.toNat → exec .iterateN s = .next (failed .operandRange s))

/-! ### Output extraction -/

/-- R140, R141: NEXT_RAW, from the current vector and with a refill. -/
def Obligations.NextRawResult : Prop :=
  encode .nextRaw = 0x20 ∧
  ∀ s : State,
    (s.seeded = true → s.cursor.toNat < s.cfg.n →
      exec .nextRaw s = .next (completed { s with
        result := s.v.getD s.cursor.toNat 0, cursor := s.cursor + 1 })) ∧
    (s.seeded = true → s.cfg.n ≤ s.cursor.toNat →
      let g := (iterateRaw s.cfg)^[s.nskip.toNat + 1] s.gen
      exec .nextRaw s = .next (completed { s with
        v := storedV g.v, csum := BitVec.ofNat 64 g.cs, cursor := 2,
        result := (storedV g.v).getD 1 0 })) ∧
    (s.seeded = false → exec .nextRaw s = .next (failed .notSeeded s))

/-- R142: NEXT_UNIFORM changes the state as NEXT_RAW does and returns the encoding of the residue NEXT_RAW returns. -/
def Obligations.NextUniformResult : Prop :=
  encode .nextUniform = 0x21 ∧
  (∀ s : State, EngineInv s → s.seeded = true →
    ∃ u, exec .nextRaw s = .next u ∧
      exec .nextUniform s = .next { u with result := uniformBits u.result.toNat }) ∧
  (∀ s : State, s.seeded = false → exec .nextUniform s = .next (failed .notSeeded s)) ∧
  uniformBits 0 = 0 ∧ uniformBits mersBase = 0x3FF0000000000000 ∧
  uniformBits (mersBase - 1) = 0x3FF0000000000000 ∧ uniformBits (2 ^ 60) = 0x3FE0000000000000

/-- R144: the value of the encoding is x · 2^−61 below 2^53, and from there on the multiple of the unit in the last
place nearest to x, ties to even, times 2^−61. The layout of binary64 is presumed (log 23). -/
def Obligations.UniformConversionRounds : Prop :=
  ∀ x : Nat, x ≤ mersBase →
    (x < 2 ^ 53 → binary64Value (uniformBits x) = (x : ℚ) * 2 ^ (-61 : ℤ)) ∧
    (2 ^ 53 ≤ x → ∃ m : Nat, 2 ^ 52 ≤ m ∧ m ≤ 2 ^ 53 ∧
      binary64Value (uniformBits x) = ((m * 2 ^ (Nat.log2 x - 52) : Nat) : ℚ) * 2 ^ (-61 : ℤ) ∧
      2 * |((m * 2 ^ (Nat.log2 x - 52) : Nat) : ℤ) - (x : ℤ)| ≤ 2 ^ (Nat.log2 x - 52) ∧
      (2 * |((m * 2 ^ (Nat.log2 x - 52) : Nat) : ℤ) - (x : ℤ)| = 2 ^ (Nat.log2 x - 52) → m % 2 = 0))

/-- R145: u is in [0, 1], 0 only for 0, and 1 exactly from 2^61 − 128 on. The layout of binary64 is presumed
(log 23). -/
def Obligations.UniformRange : Prop :=
  ∀ x : Nat, x ≤ mersBase →
    0 ≤ binary64Value (uniformBits x) ∧ binary64Value (uniformBits x) ≤ 1 ∧
    (binary64Value (uniformBits x) = 0 ↔ x = 0) ∧
    (binary64Value (uniformBits x) = 1 ↔ 2 ^ 61 - 128 ≤ x) ∧
    (uniformBits x = 0x3FF0000000000000 ↔ 2 ^ 61 - 128 ≤ x)

/-- R143, R147: FILL_UNIFORM: every word it writes, every byte it leaves alone, and the state it leaves. A word on
which a racing host write won (s.kept) stays as memory holds it (R60, logs 10, 30). -/
def Obligations.FillUniformResult : Prop :=
  encode .fillUniform = 0x22 ∧
  ∀ s : State, s.cfg.wf → s.v.length = s.cfg.n → s.mem.wf →
    (s.seeded = true → s.arg0.toNat < 2 ^ 32 →
      s.arg0.toNat = 0 ∨ (s.arg1.toNat % 8 = 0 ∧ s.arg1.toNat + 8 * s.arg0.toNat ≤ s.cfg.memSize) →
      let m := s.cfg.n - 1
      let q := s.arg0.toNat / m
      let r := s.arg0.toNat % m
      let g := fun j => (iterateRaw s.cfg)^[(s.nskip.toNat + 1) * j] s.gen
      let blocks := if r = 0 then q else q + 1
      ∃ t, exec .fillUniform s = .next t ∧
        t = completed { s with v := storedV (g blocks).v, csum := BitVec.ofNat 64 (g blocks).cs,
                               cursor := BitVec.ofNat 16 (if r = 0 then s.cfg.n else r), mem := t.mem } ∧
        (∀ k < s.arg0.toNat, t.mem.readWord (s.arg1.toNat + 8 * k) =
          if s.arg1.toNat + 8 * k ∈ s.kept then s.mem.readWord (s.arg1.toNat + 8 * k)
          else uniformBits (elementOf (g (k / m + 1)).v (if k < q * m then k % m + 1 else k - q * m))) ∧
        (∀ b, b < s.arg1.toNat ∨ s.arg1.toNat + 8 * s.arg0.toNat ≤ b → t.mem.readByte b = s.mem.readByte b)) ∧
    (s.seeded = false → exec .fillUniform s = .next (failed .notSeeded s)) ∧
    (s.seeded = true → 2 ^ 32 ≤ s.arg0.toNat → exec .fillUniform s = .next (failed .operandRange s)) ∧
    (s.seeded = true → s.arg0.toNat < 2 ^ 32 → 0 < s.arg0.toNat →
      (s.arg1.toNat % 8 ≠ 0 ∨ s.cfg.memSize < s.arg1.toNat + 8 * s.arg0.toNat) →
      exec .fillUniform s = .next (failed .addressError s))

/-- R146: FILL_UNIFORM n against n NEXT_UNIFORM from the same state with CURSOR = N. -/
def Obligations.FillAgreesWithNext : Prop :=
  ∀ s : State, EngineInv s → s.seeded = true → s.cursor.toNat = s.cfg.n → s.kept = [] → s.arg0.toNat < 2 ^ 32 →
    s.arg0.toNat = 0 ∨ (s.arg1.toNat % 8 = 0 ∧ s.arg1.toNat + 8 * s.arg0.toNat ≤ s.cfg.memSize) →
    let n := s.arg0.toNat
    let r := n % (s.cfg.n - 1)
    ∃ t ws u, exec .fillUniform s = .next t ∧ uniformDraws n s = some (ws, u) ∧ ws.length = n ∧
      t.v = u.v ∧ t.csum = u.csum ∧
      (∀ k < n - r, t.mem.readWord (s.arg1.toNat + 8 * k) = ws.getD k 0) ∧
      (∀ j < r, t.mem.readWord (s.arg1.toNat + 8 * (n - r + j)) = uniformBits (t.v.getD j 0).toNat ∧
        ws.getD (n - r + j) 0 = uniformBits (t.v.getD (j + 1) 0).toNat) ∧
      t.cursor.toNat = (if r = 0 then s.cfg.n else r) ∧
      u.cursor.toNat = (if r = 0 then s.cfg.n else r + 1)

/-! ### Seeding -/

/-- R160: SEED_BASIS. -/
def Obligations.SeedBasisResult : Prop :=
  encode .seedBasis = 0x30 ∧
  ∀ s : State,
    (s.arg0.toNat < s.cfg.n →
      exec .seedBasis s = .next (completed { s with
        v := (List.range s.cfg.n).map fun i => if i = s.arg0.toNat then 1 else 0,
        csum := if s.arg0 = 0 then 0 else 1, cursor := BitVec.ofNat 16 s.cfg.n, seeded := true })) ∧
    (s.cfg.n ≤ s.arg0.toNat → exec .seedBasis s = .next (failed .invalidIndex s))

/-- R163, R164: SEED_LINEAR, its generator as 64-bit arithmetic; the generator never reaches 0. -/
def Obligations.SeedLinearResult : Prop :=
  encode .seedLinear = 0x31 ∧
  ∀ s : State, s.cfg.wf →
    let next : Word → Word := fun l => (l * 6364136223846793005).rotateLeft 32
    let v : List Word := (List.range s.cfg.n).map fun i => next^[i] s.arg0 &&& BitVec.ofNat 64 mersBase
    (s.arg0 ≠ 0 →
      exec .seedLinear s = .next (completed { s with
        v := v,
        csum := BitVec.ofNat 64 (red s.cfg.pReduce
          (match s.cfg.slCsum with
            | .full => (v.map BitVec.toNat).sum
            | .excl0 => (v.tail.map BitVec.toNat).sum)),
        cursor := BitVec.ofNat 16 s.cfg.n, seeded := true })) ∧
    (s.arg0 ≠ 0 → ∀ i, next^[i] s.arg0 ≠ 0) ∧
    (s.arg0 = 0 → exec .seedLinear s = .next (failed .zeroSeed s))

/-- R166, R167: RECOMPUTE_CSUM. -/
def Obligations.RecomputeCsumResult : Prop :=
  encode .recomputeCsum = 0x32 ∧
  ∀ s : State,
    (s.seeded = true → (∀ w ∈ s.v, w.toNat ≤ mersBase) →
      ∃ t, exec .recomputeCsum s = .next t ∧ csumIsExcl0 t ∧
        t = completed { s with
          csum := BitVec.ofNat 64 (red s.cfg.pReduce (s.v.tail.map BitVec.toNat).sum) }) ∧
    (s.seeded = false → exec .recomputeCsum s = .next (failed .notSeeded s))

/-- R184, R185, R186: SEED_STREAM: the fallback, the skip from e_0, and its errors. -/
def Obligations.SeedStreamResult : Prop :=
  encode (.seedStream false) = 0x33 ∧ encode (.seedStream true) = 0x133 ∧
  ∀ (s : State) (reqt : Bool), s.cfg.wf →
    let ok := s.arg0.toNat < 2 ^ 32 ∧ s.arg1.toNat < 2 ^ 32 ∧ s.arg2.toNat < 2 ^ 32 ∧ s.arg3.toNat < 2 ^ 32
    (ok → s.cfg.table = none → reqt = false →
      let packed := [s.arg0.toNat, s.arg1.toNat, s.arg2.toNat, s.arg3.toNat,
        s.arg0.toNat * 2 ^ s.cfg.fbShifts.cluster, s.arg1.toNat * 2 ^ s.cfg.fbShifts.machine,
        s.arg2.toNat * 2 ^ s.cfg.fbShifts.run, s.arg3.toNat * 2 ^ s.cfg.fbShifts.stream] ++
          List.replicate (s.cfg.n - 8) 0
      let g := (iterateRaw s.cfg)^[2] { v := packed, cs := red s.cfg.pReduce packed.tail.sum }
      exec (.seedStream reqt) s = .next (completed { s with
        v := storedV g.v, csum := BitVec.ofNat 64 g.cs, cursor := BitVec.ofNat 16 s.cfg.n, seeded := true })) ∧
    (ok → ∀ t, s.cfg.table = some t →
      let y := skipVector s.cfg t [s.arg3.toNat, s.arg2.toNat, s.arg1.toNat, s.arg0.toNat]
        ((List.range s.cfg.n).map fun i => if i = 0 then 1 else 0)
      exec (.seedStream reqt) s = .next (completed { s with
        v := storedV y, csum := BitVec.ofNat 64 (csumExcl0 s.cfg.pReduce y),
        cursor := BitVec.ofNat 16 s.cfg.n, seeded := true })) ∧
    (ok → s.cfg.table = none → reqt = true → exec (.seedStream reqt) s = .next (failed .missingSkipTable s)) ∧
    (¬ ok → exec (.seedStream reqt) s = .next (failed .operandRange s))

/-! ### Skip-ahead -/

/-- R183: SKIP and its errors. -/
def Obligations.SkipResult : Prop :=
  encode .skip = 0x34 ∧
  ∀ s : State,
    let ok := s.arg0.toNat < 2 ^ 32 ∧ s.arg1.toNat < 2 ^ 32 ∧ s.arg2.toNat < 2 ^ 32 ∧ s.arg3.toNat < 2 ^ 32
    (s.seeded = true → ok → ∀ t, s.cfg.table = some t →
      let y := skipVector s.cfg t [s.arg3.toNat, s.arg2.toNat, s.arg1.toNat, s.arg0.toNat] (s.v.map BitVec.toNat)
      exec .skip s = .next (completed { s with
        v := storedV y, csum := BitVec.ofNat 64 (csumExcl0 s.cfg.pReduce y),
        cursor := BitVec.ofNat 16 s.cfg.n })) ∧
    (s.seeded = true → s.arg0 = 0 → s.arg1 = 0 → s.arg2 = 0 → s.arg3 = 0 → s.cfg.table.isSome = true →
      exec .skip s = .next (completed { s with
        csum := BitVec.ofNat 64 (csumExcl0 s.cfg.pReduce (s.v.map BitVec.toNat)),
        cursor := BitVec.ofNat 16 s.cfg.n })) ∧
    (s.seeded = false → exec .skip s = .next (failed .notSeeded s)) ∧
    (s.seeded = true → ¬ ok → exec .skip s = .next (failed .operandRange s)) ∧
    (s.seeded = true → ok → s.cfg.table = none → exec .skip s = .next (failed .missingSkipTable s))

/-- R180, R181: bit r of ID[L] selects table row r + 32·L, and an ID of zeros is the identity; an ID of any set bits applies
their rows one after another, levels 0 to 3 and bits 0 to 31 in each, with the EXCL0 checksum of the working vector anew
before each. -/
def Obligations.IdBitSelectsTableRow : Prop :=
  ∀ (c : Config) (t : List (List Word)) (y : List Nat),
    (∀ l < 4, ∀ r < 32,
      skipVector c t ((List.replicate 4 0).set l (2 ^ r)) y =
        (skipRow c (tableRow t (r + 32 * l)) { v := y, cs := csumExcl0 c.pReduce y }).v) ∧
    skipVector c t [0, 0, 0, 0] y = y ∧
    (∀ ids : List Nat, skipVector c t ids y =
      (selectedRows ids).foldl
        (fun z k => (skipRow c (tableRow t k) { v := z, cs := csumExcl0 c.pReduce z }).v) y) ∧
    ∀ s : State, s.levelIds = [s.arg3.toNat, s.arg2.toNat, s.arg1.toNat, s.arg0.toNat]

/-- R187: one set bit with row w maps Y to the polynomial Σ_j w[j]·A^j applied to Y, modulo p, and a whole skip to the
product of the polynomials of its set bits, taken in any order. -/
def Obligations.SkipRowIsMatrixPolynomial : Prop :=
  ∀ (c : Config) (y : List Nat), c.wf → y.length = c.n → (∀ x ∈ y, x ≤ mersBase) →
    (∀ row : List Nat, row.length = c.n → (∀ x ∈ row, x ≤ mersBase) →
      ∀ i < c.n, elementOf (skipRow c row { v := y, cs := csumExcl0 c.pReduce y }).v i ≡
        ∑ j ∈ Finset.range c.n, elementOf row j * (matVec c)^[j] (elementOf y) i [MOD mersBase]) ∧
    (∀ t, c.table = some t → ∀ (ids order : List Nat), order.Perm (selectedRows ids) →
      ∀ i < c.n, elementOf (skipVector c t ids y) i ≡
        order.foldl (fun f k => rowPolynomial c (tableRow t k) f) (elementOf y) i [MOD mersBase])

/-! ### Export, import and vector load -/

/-- R200, R201: EXPORT: every word of the record, every byte it leaves alone, and its errors. A word on which a racing
host write won (s.kept) stays as memory holds it (R60, logs 10, 30). -/
def Obligations.ExportResult : Prop :=
  encode .exportState = 0x40 ∧
  ∀ s : State, s.v.length = s.cfg.n → s.mem.wf →
    (s.seeded = true → s.arg0.toNat % 8 = 0 → s.arg0.toNat + 8 * (s.cfg.n + 3) ≤ s.cfg.memSize →
      ∃ t, exec .exportState s = .next t ∧ t = completed { s with mem := t.mem } ∧
        (∀ k < s.cfg.n + 3, t.mem.readWord (s.arg0.toNat + 8 * k) =
          if s.arg0.toNat + 8 * k ∈ s.kept then s.mem.readWord (s.arg0.toNat + 8 * k)
          else if k = 0 then BitVec.ofNat 64 s.cfg.n
          else if k = 1 then BitVec.ofNat 64 s.cursor.toNat
          else if k = 2 then s.csum
          else s.v.getD (k - 3) 0) ∧
        (∀ b, b < s.arg0.toNat ∨ s.arg0.toNat + 8 * (s.cfg.n + 3) ≤ b → t.mem.readByte b = s.mem.readByte b)) ∧
    (s.seeded = false → exec .exportState s = .next (failed .notSeeded s)) ∧
    (s.seeded = true → (s.arg0.toNat % 8 ≠ 0 ∨ s.cfg.memSize < s.arg0.toNat + 8 * (s.cfg.n + 3)) →
      exec .exportState s = .next (failed .addressError s))

/-- R202: IMPORT: its checks in order, and the state it installs. The words are those the engine reads: memory's, but
for words a racing host write changed after the engine had read them (R60, log 9). -/
def Obligations.ImportResult : Prop :=
  encode .importState = 0x41 ∧
  ∀ s : State,
    let w : Nat → Word := fun k => s.portRead (s.arg0.toNat + 8 * k)
    let address := s.arg0.toNat % 8 = 0 ∧ s.arg0.toNat + 8 * (s.cfg.n + 3) ≤ s.cfg.memSize
    let size := (w 0).toNat = s.cfg.n
    let values := ∀ i < s.cfg.n, (w (3 + i)).toNat ≤ mersBase
    let cursor := (w 1).toNat ≤ s.cfg.n
    let checksum := (w 2).toNat =
      red s.cfg.pReduce (∑ i ∈ Finset.range (s.cfg.n - 1), (w (4 + i)).toNat)
    (s.latched = [] → ∀ k, w k = s.mem.readWord (s.arg0.toNat + 8 * k)) ∧
    (¬ address → exec .importState s = .next (failed .addressError s)) ∧
    (address → ¬ size → exec .importState s = .next (failed .importSizeMismatch s)) ∧
    (address → size → ¬ values → exec .importState s = .next (failed .importOutOfRangeValue s)) ∧
    (address → size → values → ¬ cursor → exec .importState s = .next (failed .importInvalidCursor s)) ∧
    (address → size → values → cursor → ¬ checksum →
      exec .importState s = .next (failed .importChecksumMismatch s)) ∧
    (address → size → values → cursor → checksum →
      exec .importState s = .next (completed { s with
        v := (List.range s.cfg.n).map fun i => w (3 + i), cursor := BitVec.ofNat 16 (w 1).toNat, csum := w 2,
        seeded := true }))

/-- R205: LOADV. The words are those the engine reads, as in IMPORT (log 9). -/
def Obligations.LoadvResult : Prop :=
  encode .loadv = 0x42 ∧
  ∀ s : State,
    let w : Nat → Word := fun k => s.portRead (s.arg0.toNat + 8 * k)
    let address := s.arg0.toNat % 8 = 0 ∧ s.arg0.toNat + 8 * s.cfg.n ≤ s.cfg.memSize
    let values := ∀ i < s.cfg.n, (w i).toNat ≤ mersBase
    (s.latched = [] → ∀ k, w k = s.mem.readWord (s.arg0.toNat + 8 * k)) ∧
    (¬ address → exec .loadv s = .next (failed .addressError s)) ∧
    (address → ¬ values → exec .loadv s = .next (failed .importOutOfRangeValue s)) ∧
    (address → values →
      exec .loadv s = .next (completed { s with
        v := (List.range s.cfg.n).map w,
        csum := BitVec.ofNat 64 (red s.cfg.pReduce (∑ i ∈ Finset.range (s.cfg.n - 1), (w (1 + i)).toNat)),
        cursor := BitVec.ofNat 16 s.cfg.n, seeded := true }))

/-- R204: EXPORT then IMPORT at the same address changes nothing when CSUM follows EXCL0, and otherwise fails with
ImportChecksumMismatch and changes nothing but STATUS. -/
def Obligations.ExportImportRoundTrip : Prop :=
  ∀ s : State, EngineInv s → s.seeded = true → s.kept = [] → s.arg0.toNat % 8 = 0 →
    s.arg0.toNat + 8 * (s.cfg.n + 3) ≤ s.cfg.memSize →
    ∃ t, exec .exportState s = .next t ∧ t.v = s.v ∧ t.csum = s.csum ∧ t.cursor = s.cursor ∧
      (csumIsExcl0 s → exec .importState t = .next t) ∧
      (¬ csumIsExcl0 s → exec .importState t = .next (failed .importChecksumMismatch t))

/-! ### Errors -/

/-- R224: a failing command changes nothing but STATUS, in particular no memory. -/
def Obligations.FailureChangesOnlyStatus : Prop :=
  ∀ (i : Instr) (s t : State), exec i s = .next t → t.err = true →
    t = { s with running := none, err := true, errcode := t.errcode, latched := [], kept := [] }

/-- R92, R93, R220, R221: every command completes in every state, with code 0 on success and else with one of the codes
R220 gives it; the commands that read V, CSUM or CURSOR report NotSeeded before anything else. -/
def Obligations.EveryCommandCompletesWithItsCodes : Prop :=
  ∀ (i : Instr) (s : State),
    (∃ t, exec i s = .next t ∧ t.busy = false ∧
      ((t.err = false ∧ t.errcode = 0) ∨ (t.err = true ∧ ∃ e ∈ errorsOf i, t.errcode = e.code))) ∧
    (needsSeed i = true → s.seeded = false → exec i s = .next (failed .notSeeded s)) ∧
    ∀ e : ErrCause, 1 ≤ e.code.toNat ∧ e.code.toNat ≤ 11

/-! ### Invariants and whole-machine rules -/

/-- The invariants hold after reset of every legal configuration. The zeros of V, CSUM and CURSOR are the model's
choice (log 3). -/
def Obligations.InvariantsHoldAtReset : Prop :=
  (∀ c : Config, c.wf → EngineInv (State.resetWith c) ∧ csumConvention (State.resetWith c)) ∧ EngineInv State.reset

/-- R22, R24, R90, R220: every step keeps the invariants. -/
def Obligations.StepKeepsInvariants : Prop :=
  ∀ s t : State, EngineInv s → step s = .next t → EngineInv t

/-- R23: every step keeps the checksum convention. -/
def Obligations.StepKeepsChecksumConvention : Prop :=
  ∀ s t : State, EngineInv s → csumConvention s → step s = .next t → csumConvention t

/-- R23: after the success of a command that writes V, CSUM is csum_excl0(V) bit for bit, but after SEED_LINEAR under
FULL, where it is csum_full(V); RECOMPUTE_CSUM makes it csum_excl0(V); a command that writes neither leaves both. -/
def Obligations.ChecksumPerCallSite : Prop :=
  ∀ s t : State, EngineInv s →
    (∀ i : Instr, i ∈ ([.iterate, .seedBasis, .seedStream false, .seedStream true, .skip, .importState, .loadv,
        .recomputeCsum] : List Instr) → exec i s = .next t → t.err = false → csumIsExcl0 t) ∧
    (exec .seedLinear s = .next t → t.err = false → s.cfg.slCsum = .full → csumIsFull t) ∧
    (exec .seedLinear s = .next t → t.err = false → s.cfg.slCsum = .excl0 → csumIsExcl0 t) ∧
    (∀ i : Instr, i ∈ ([.nextRaw, .nextUniform] : List Instr) → exec i s = .next t → t.err = false →
      if s.cursor.toNat < s.cfg.n then t.v = s.v ∧ t.csum = s.csum else csumIsExcl0 t) ∧
    (∀ i : Instr, i ∈ ([.iterateN, .fillUniform] : List Instr) → exec i s = .next t → t.err = false →
      if s.arg0 = 0 then t.v = s.v ∧ t.csum = s.csum else csumIsExcl0 t) ∧
    (∀ i : Instr, i ∈ ([.nop, .modadd, .modmul, .fmma, .reduce, .exportState] : List Instr) → exec i s = .next t →
      t.v = s.v ∧ t.csum = s.csum)

/-- R25, R206: only the five construction commands set SEEDED, and only reset clears it. -/
def Obligations.SeededOnlyByConstruction : Prop :=
  ∀ s t : State, step s = .next t →
    (s.seeded = false → t.seeded = true →
      ∃ w i, s.running = some w ∧ decode w = .ok i ∧ buildsState i = true ∧ t.busy = false ∧ t.err = false) ∧
    (s.seeded = true → t.seeded = false → ∃ rest, s.host = .reset :: rest)

/-- R25: while SEEDED = 0, the values of V, CSUM and CURSOR decide nothing: two states that differ only there step
alike, and go on differing only there until a construction command makes them equal. -/
def Obligations.UnseededStateIsInvisible : Prop :=
  ∀ (s : State) (v : List Word) (csum : Word) (cursor : BitVec 16), s.seeded = false →
    (∀ t, step s = .next t →
      ∃ t', step { s with v := v, csum := csum, cursor := cursor } = .next t' ∧
        (t' = t ∨ (t.seeded = false ∧ t' = { t with v := v, csum := csum, cursor := cursor }))) ∧
    (∀ r, step s = .refused r → step { s with v := v, csum := csum, cursor := cursor } = .refused r)

/-! ### Reset and races -/

/-- R40: the reset values the spec gives, for every configuration. -/
def Obligations.ResetValues : Prop :=
  ∀ c : Config,
    (State.resetWith c).cfg = c ∧ (State.resetWith c).seeded = false ∧ (State.resetWith c).nskip = 2 ∧
    (State.resetWith c).arg0 = 0 ∧ (State.resetWith c).arg1 = 0 ∧ (State.resetWith c).arg2 = 0 ∧
    (State.resetWith c).arg3 = 0 ∧ (State.resetWith c).result = 0 ∧
    (State.resetWith c).readReg .status = 0 ∧ (State.resetWith c).running = none

/-- R250, R251, R252: reset at any time, in the middle of a command too: the register values the spec gives, and of
memory only the words of an abandoned command, each old or new. -/
def Obligations.ResetAtAnyTime : Prop :=
  ∀ (s : State) (rest : List HostEvent), runnable s.cfg → s.mem.wf → s.host = .reset :: rest →
    ∃ t, step s = .next t ∧
      t.cfg = s.cfg ∧ t.seeded = false ∧ t.nskip = 2 ∧ t.arg0 = 0 ∧ t.arg1 = 0 ∧ t.arg2 = 0 ∧ t.arg3 = 0 ∧
      t.result = 0 ∧ t.readReg .status = 0 ∧ t.running = none ∧ t.latched = [] ∧ t.kept = [] ∧ t.host = rest ∧ t.observed = s.observed ∧
      (∀ c ∈ s.writesInFlight, t.mem.readWord c.1 = s.mem.readWord c.1 ∨ t.mem.readWord c.1 = c.2) ∧
      (∀ b, (∀ c ∈ s.writesInFlight, b < c.1 ∨ c.1 + 8 ≤ b) → t.mem.readByte b = s.mem.readByte b) ∧
      (s.busy = false → t.mem = s.mem)

/-- R52, R53, R59, R76: a host write of the window leaves its value at its bytes, every other byte as it was and every
register unchanged, idle or busy, and a host read of an idle engine's window returns the word there. That any byte address
serves (log 13), and that an access beyond the window changes and returns nothing (log 14), are the model's choice. -/
def Obligations.HostMemoryAccess : Prop :=
  ∀ (s : State) (a x : Word) (rest : List HostEvent), runnable s.cfg → s.mem.wf →
    (s.host = .memWrite a x :: rest →
      ∃ t, step s = .next t ∧
        (∀ b, t.mem.readByte b =
          if a.toNat ≤ b ∧ b < a.toNat + 8 ∧ b < s.cfg.memSize then x.extractLsb' (8 * (b - a.toNat)) 8
          else s.mem.readByte b) ∧
        (a.toNat + 8 ≤ s.cfg.memSize → t.mem.readWord a.toNat = x) ∧
        t = { s with host := rest, mem := t.mem, latched := t.latched, kept := t.kept, draws := t.draws } ∧
        (s.busy = false ∨ s.cfg.memSize ≤ a.toNat →
          t.latched = s.latched ∧ t.kept = s.kept ∧ t.draws = s.draws)) ∧
    (s.host = .memRead a :: rest → a.toNat + 8 ≤ s.cfg.memSize → s.busy = false →
      step s = .next { s with host := rest, observed := s.mem.readWord a.toNat :: s.observed }) ∧
    (s.host = .memRead a :: rest → s.cfg.memSize < a.toNat + 8 → step s = .next { s with host := rest })

/-- R60: a host read of a word the running command writes returns the word in memory or the command's word; any other
aligned read returns the word in memory. For every outcome of the free draws. How a race is drawn is log 8's. -/
def Obligations.RacingHostRead : Prop :=
  ∀ (s : State) (a : Word) (rest : List HostEvent), runnable s.cfg → s.mem.wf → s.host = .memRead a :: rest →
    a.toNat % 8 = 0 → a.toNat + 8 ≤ s.cfg.memSize →
    ∃ x draws, step s = .next { s with host := rest, observed := x :: s.observed, draws := draws } ∧
      (x = s.mem.readWord a.toNat ∨ (a.toNat, x) ∈ s.writesInFlight)

/-- R51, R60: the words a running IMPORT or LOADV reads; and after a host write to one of them, the engine reads the old
word or the new one there, and every other word as before. For every outcome of the free draws. How a race is drawn is log
9's. -/
def Obligations.RacingHostWriteToReadWord : Prop :=
  (∀ s : State,
    (s.running = some (encode .importState) → s.arg0.toNat % 8 = 0 →
      s.arg0.toNat + 8 * (s.cfg.n + 3) ≤ s.cfg.memSize →
      s.readsInFlight = (List.range (s.cfg.n + 3)).map fun k => s.arg0.toNat + 8 * k) ∧
    (s.running = some (encode .loadv) → s.arg0.toNat % 8 = 0 → s.arg0.toNat + 8 * s.cfg.n ≤ s.cfg.memSize →
      s.readsInFlight = (List.range s.cfg.n).map fun k => s.arg0.toNat + 8 * k)) ∧
  ∀ (s : State) (a x : Word) (rest : List HostEvent), runnable s.cfg → s.mem.wf →
    s.host = .memWrite a x :: rest → a.toNat % 8 = 0 → a.toNat ∈ s.readsInFlight →
    ∃ t, step s = .next t ∧ t.mem.readWord a.toNat = x ∧
      (t.portRead a.toNat = s.portRead a.toNat ∨ t.portRead a.toNat = x) ∧
      (∀ b, b % 8 = 0 → b ≠ a.toNat → t.portRead b = s.portRead b) ∧
      (∀ b, b < a.toNat ∨ a.toNat + 8 ≤ b → t.mem.readByte b = s.mem.readByte b) ∧
      t = { s with host := rest, mem := t.mem, latched := t.latched, draws := t.draws }

/-- R51, R60: the words a running FILL_UNIFORM or EXPORT writes, each left at completion where no host write races; and
after a host write to one of them, the completed command leaves the host's value or its own. For every outcome of the free
draws. How a race is drawn is log 10's. -/
def Obligations.RacingHostWriteToWrittenWord : Prop :=
  (∀ s : State, EngineInv s → s.seeded = true →
    (s.running = some (encode .fillUniform) → s.arg0.toNat < 2 ^ 32 →
      s.arg0.toNat = 0 ∨ (s.arg1.toNat % 8 = 0 ∧ s.arg1.toNat + 8 * s.arg0.toNat ≤ s.cfg.memSize) →
      s.writesInFlight.map Prod.fst = (List.range s.arg0.toNat).map fun k => s.arg1.toNat + 8 * k) ∧
    (s.running = some (encode .exportState) → s.arg0.toNat % 8 = 0 →
      s.arg0.toNat + 8 * (s.cfg.n + 3) ≤ s.cfg.memSize →
      s.writesInFlight.map Prod.fst = (List.range (s.cfg.n + 3)).map fun k => s.arg0.toNat + 8 * k)) ∧
  (∀ s : State, EngineInv s → s.kept = [] → ∀ c ∈ s.writesInFlight,
    ∃ u, engineTurn s = .next u ∧ u.mem.readWord c.1 = c.2) ∧
  ∀ (s : State) (a x w : Word) (rest : List HostEvent), runnable s.cfg → EngineInv s →
    s.host = .memWrite a x :: rest → (a.toNat, w) ∈ s.writesInFlight →
    ∃ t u, step s = .next t ∧ engineTurn t = .next u ∧
      (u.mem.readWord a.toNat = x ∨ u.mem.readWord a.toNat = w) ∧ u.err = false
end

