-- ==== Sys2Proof/Laws/Memory.lean ====
section
/-! SUPPORT. The laws of the memory window: what a read after a write returns, that every memory operation keeps the
canonical form and the window's bounds, and that canonical memories with equal bytes are equal. -/

namespace Sys2Proof.Laws

open Sys2Proof.Machine

@[simp] theorem readByte_nil (a : Nat) : Memory.readByte [] a = Memory.unlisted := rfl

theorem readByte_cons (c : Host.Cell) (m : Memory) (a : Nat) :
    Memory.readByte (c :: m) a = if c.1 = a then c.2 else Memory.readByte m a := rfl

/-- An address below every listed one reads as unlisted. -/
theorem readByte_of_lt (m : Memory) (a : Nat) (h : ∀ c ∈ m, a < c.1) :
    m.readByte a = Memory.unlisted := by
  induction m with
  | nil => rfl
  | cons c m ih =>
    have hc := h c (by simp)
    rw [readByte_cons, if_neg (by omega)]
    exact ih fun d hd => h d (by simp [hd])

theorem readByte_consByte (a b : Nat) (x : Byte) (m : Memory) (h : ∀ c ∈ m, a < c.1) :
    (Memory.consByte a x m).readByte b = if a = b then x else m.readByte b := by
  unfold Memory.consByte
  split
  · next hx =>
    split
    · next hab => subst hab; rw [hx]; exact readByte_of_lt m a h
    · rfl
  · rfl

/-- The entries of a written memory: the written one, or an old one. -/
theorem mem_writeByte {m : Memory} {a : Nat} {x : Byte} {c : Host.Cell} (h : c ∈ m.writeByte a x) :
    (c = (a, x) ∧ x ≠ Memory.unlisted) ∨ c ∈ m := by
  induction m with
  | nil =>
    simp only [Memory.writeByte, Memory.consByte] at h
    split at h
    · simp at h
    · exact .inl ⟨by simpa using h, by assumption⟩
  | cons d m ih =>
    simp only [Memory.writeByte, Memory.consByte] at h
    split_ifs at h
    · exact .inr h
    · rcases List.mem_cons.1 h with rfl | h
      · exact .inl ⟨rfl, by assumption⟩
      · exact .inr h
    · exact .inr (by simp [h])
    · rcases List.mem_cons.1 h with rfl | h
      · exact .inl ⟨rfl, by assumption⟩
      · exact .inr (by simp [h])
    · rcases List.mem_cons.1 h with rfl | h
      · exact .inr (by simp)
      · rcases ih h with h | h
        · exact .inl h
        · exact .inr (by simp [h])

/-- A byte write keeps the canonical form. -/
theorem writeByte_wf {m : Memory} (h : m.wf) (a : Nat) (x : Byte) : (m.writeByte a x).wf := by
  refine ⟨?_, fun c hc => ?_⟩
  · induction m with
    | nil => unfold Memory.writeByte Memory.consByte; split <;> simp
    | cons d m ih =>
      obtain ⟨hp, hz⟩ := h
      rw [List.pairwise_cons] at hp
      have ih' := ih ⟨hp.2, fun c hc => hz c (by simp [hc])⟩
      simp only [Memory.writeByte, Memory.consByte]
      split_ifs with h1 h2 h3 h4
      · exact List.pairwise_cons.2 hp
      · refine List.pairwise_cons.2 ⟨fun y hy => ?_, List.pairwise_cons.2 hp⟩
        rcases List.mem_cons.1 hy with rfl | hy
        · exact h1
        · exact h1.trans (hp.1 y hy)
      · exact hp.2
      · exact List.pairwise_cons.2 ⟨fun y hy => h3 ▸ hp.1 y hy, hp.2⟩
      · refine List.pairwise_cons.2 ⟨fun y hy => ?_, ih'⟩
        rcases mem_writeByte hy with ⟨rfl, -⟩ | hy
        · show d.1 < a
          omega
        · exact hp.1 y hy
  · rcases mem_writeByte hc with ⟨rfl, hx⟩ | hc
    · exact hx
    · exact h.2 c hc

/-- A byte write inside the window keeps memory inside the window. -/
theorem writeByte_within {m : Memory} {n a : Nat} (h : m.within n) (ha : a < n) (x : Byte) :
    (m.writeByte a x).within n := by
  intro c hc
  rcases mem_writeByte hc with ⟨rfl, -⟩ | hc
  · exact ha
  · exact h c hc

/-- Reading a byte after a byte write: the written byte at its address, the old one elsewhere. -/
theorem readByte_writeByte {m : Memory} (h : m.wf) (a b : Nat) (x : Byte) :
    (m.writeByte a x).readByte b = if a = b then x else m.readByte b := by
  induction m with
  | nil => exact readByte_consByte a b x [] (by simp)
  | cons d m ih =>
    obtain ⟨hp, hz⟩ := h
    rw [List.pairwise_cons] at hp
    have ih' := ih ⟨hp.2, fun c hc => hz c (by simp [hc])⟩
    simp only [Memory.writeByte]
    split_ifs with h1 h2 h3 h4 h5
    · rw [readByte_consByte _ _ _ _ fun c hc => ?_, if_pos h2]
      rcases List.mem_cons.1 hc with rfl | hc
      · exact h1
      · exact h1.trans (hp.1 c hc)
    · rw [readByte_consByte _ _ _ _ fun c hc => ?_, if_neg h2]
      rcases List.mem_cons.1 hc with rfl | hc
      · exact h1
      · exact h1.trans (hp.1 c hc)
    · rw [readByte_consByte _ _ _ _ fun c hc => h3 ▸ hp.1 c hc, if_pos h4]
    · rw [readByte_consByte _ _ _ _ fun c hc => h3 ▸ hp.1 c hc, if_neg h4, readByte_cons,
        if_neg (by omega)]
    · rw [readByte_cons, ih', if_pos h5, if_neg (by omega)]
    · rw [readByte_cons, readByte_cons, ih', if_neg h5]

/-- Byte-sequence writes keep the canonical form. -/
theorem writeBytes_wf {m : Memory} (h : m.wf) (a n x : Nat) : (m.writeBytes a n x).wf := by
  induction n generalizing m a x with
  | zero => exact h
  | succ n ih => exact ih (writeByte_wf h _ _) _ _

theorem writeBytes_within {m : Memory} {size a n : Nat} (h : m.within size) (ha : a + n ≤ size) (x : Nat) :
    (m.writeBytes a n x).within size := by
  induction n generalizing m a x with
  | zero => exact h
  | succ n ih => exact ih (writeByte_within h (by omega) _) (by omega) _

/-- Reading a byte after n bytes were written: byte b − a of x inside them, the old byte outside (20_memory R53). -/
theorem readByte_writeBytes {m : Memory} (h : m.wf) (a n x b : Nat) :
    (m.writeBytes a n x).readByte b =
      if a ≤ b ∧ b < a + n then BitVec.ofNat 8 (x / 2 ^ (8 * (b - a))) else m.readByte b := by
  induction n generalizing m a x with
  | zero => rw [if_neg (by omega)]; rfl
  | succ n ih =>
    rw [Memory.writeBytes, ih (writeByte_wf h _ _), readByte_writeByte h]
    rcases Nat.lt_trichotomy b a with hb | rfl | hb
    · rw [if_neg (by omega), if_neg (by omega), if_neg (by omega)]
    · rw [if_neg (by omega), if_pos rfl, if_pos (by omega)]
      simp
    · by_cases hn : b < a + (n + 1)
      · rw [if_pos (by omega), if_pos (by omega), Nat.div_div_eq_div_mul, ← pow_add]
        congr 3
        omega
      · rw [if_neg (by omega), if_neg (by omega), if_neg (by omega)]

/-- n bytes read the number their bytes spell (20_memory R52). -/
theorem readBytes_eq_of_bytes {m : Memory} {a n x : Nat}
    (h : ∀ k < n, m.readByte (a + k) = BitVec.ofNat 8 (x / 2 ^ (8 * k))) :
    m.readBytes a n = x % 2 ^ (8 * n) := by
  induction n generalizing a x with
  | zero => simp [Memory.readBytes, Nat.mod_one]
  | succ n ih =>
    have h0 := h 0 (by omega)
    have hs : ∀ k < n, m.readByte (a + 1 + k) = BitVec.ofNat 8 (x / 2 ^ 8 / 2 ^ (8 * k)) := by
      intro k hk
      have := h (k + 1) (by omega)
      rw [show a + 1 + k = a + (k + 1) by omega, this, Nat.div_div_eq_div_mul, ← pow_add]
      congr 3
      omega
    rw [Memory.readBytes, ih hs]
    simp only [Nat.add_zero, Nat.mul_zero, pow_zero, Nat.div_one] at h0
    rw [h0, BitVec.toNat_ofNat, show 8 * (n + 1) = 8 + 8 * n by omega, pow_add, Nat.mod_mul]

theorem readBytes_congr {m m' : Memory} {a n : Nat} (h : ∀ k < n, m.readByte (a + k) = m'.readByte (a + k)) :
    m.readBytes a n = m'.readBytes a n := by
  induction n generalizing a with
  | zero => rfl
  | succ n ih =>
    rw [Memory.readBytes, Memory.readBytes, show m.readByte a = m'.readByte a from h 0 (by omega)]
    rw [ih fun k hk => by rw [show a + 1 + k = a + (k + 1) by omega]; exact h (k + 1) (by omega)]

/-- Words with equal bytes are equal. -/
theorem readWord_congr {m m' : Memory} {a : Nat} (h : ∀ k < 8, m.readByte (a + k) = m'.readByte (a + k)) :
    m.readWord a = m'.readWord a := by
  unfold Memory.readWord
  rw [readBytes_congr h]

theorem writeWord_wf {m : Memory} (h : m.wf) (a : Nat) (w : Word) : (m.writeWord a w).wf :=
  writeBytes_wf h _ _ _

theorem writeWord_within {m : Memory} {size a : Nat} (h : m.within size) (ha : a + 8 ≤ size) (w : Word) :
    (m.writeWord a w).within size := writeBytes_within h ha _

/-- A word write leaves every byte outside its 8 bytes alone. -/
theorem readByte_writeWord_outside {m : Memory} (h : m.wf) {a b : Nat} (w : Word) (hb : b < a ∨ a + 8 ≤ b) :
    (m.writeWord a w).readByte b = m.readByte b := by
  rw [Memory.writeWord, readByte_writeBytes h, if_neg (by omega)]

/-- A word read after a word write to the same address gives the word written (20_memory R52, R53). -/
theorem readWord_writeWord_same {m : Memory} (h : m.wf) (a : Nat) (w : Word) :
    (m.writeWord a w).readWord a = w := by
  unfold Memory.readWord
  rw [readBytes_eq_of_bytes (x := w.toNat)]
  · rw [show 8 * 8 = 64 from rfl, Nat.mod_eq_of_lt w.isLt, BitVec.ofNat_toNat, BitVec.setWidth_eq]
  · intro k hk
    rw [Memory.writeWord, readByte_writeBytes h, if_pos (by omega), Nat.add_sub_cancel_left]

/-- A word read after a word write to 8 other bytes gives the old word. -/
theorem readWord_writeWord_other {m : Memory} (h : m.wf) {a b : Nat} (w : Word) (hb : b + 8 ≤ a ∨ a + 8 ≤ b) :
    (m.writeWord a w).readWord b = m.readWord b :=
  readWord_congr fun k hk => readByte_writeWord_outside h w (by omega)

theorem writeAll_wf {m : Memory} (h : m.wf) (ps : List (Nat × Word)) : (m.writeAll ps).wf := by
  induction ps generalizing m with
  | nil => exact h
  | cons c ps ih => exact ih (writeWord_wf h _ _)

theorem writeAll_within {m : Memory} {size : Nat} (h : m.within size) (ps : List (Nat × Word))
    (hp : ∀ c ∈ ps, c.1 + 8 ≤ size) : (m.writeAll ps).within size := by
  induction ps generalizing m with
  | nil => exact h
  | cons c ps ih => exact ih (writeWord_within h (hp c (by simp)) _) fun d hd => hp d (by simp [hd])

/-- A sequence of word writes leaves every byte outside its words alone. -/
theorem readByte_writeAll_outside {m : Memory} (h : m.wf) (ps : List (Nat × Word)) {b : Nat}
    (hb : ∀ c ∈ ps, b < c.1 ∨ c.1 + 8 ≤ b) : (m.writeAll ps).readByte b = m.readByte b := by
  induction ps generalizing m with
  | nil => rfl
  | cons c ps ih =>
    rw [Memory.writeAll, ih (writeWord_wf h _ _) fun d hd => hb d (by simp [hd])]
    exact readByte_writeWord_outside h _ (hb c (by simp))

/-- The addresses of consecutive words. -/
theorem mem_wordsAt {a : Nat} {ws : List Word} {c : Nat × Word} (h : c ∈ wordsAt a ws) :
    ∃ k < ws.length, c.1 = a + 8 * k ∧ ws[k]? = some c.2 := by
  induction ws generalizing a with
  | nil => simp [wordsAt] at h
  | cons w ws ih =>
    rcases List.mem_cons.1 h with rfl | h
    · exact ⟨0, by simp, by simp, by simp⟩
    · obtain ⟨k, hk, h1, h2⟩ := ih h
      exact ⟨k + 1, by simpa using hk, by omega, by simpa using h2⟩

/-- What the engine's memory port leaves, by words: a kept word as it was, every other word of the range as the
command writes it, every byte outside the range as it was (20_memory R51, R60). -/
theorem portWrites_spec (s : State) (h : s.mem.wf) (a : Nat) (ws : List Word) :
    (s.portWrites a ws).wf ∧
    (∀ k w, ws[k]? = some w →
      (s.portWrites a ws).readWord (a + 8 * k) = if a + 8 * k ∈ s.kept then s.mem.readWord (a + 8 * k) else w) ∧
    (∀ b, b < a ∨ a + 8 * ws.length ≤ b → (s.portWrites a ws).readByte b = s.mem.readByte b) := by
  unfold State.portWrites
  generalize s.mem = m at h
  induction ws generalizing a m with
  | nil => exact ⟨h, by simp, by simp [wordsAt, Memory.writeAll]⟩
  | cons w ws ih =>
    have hrest : ∀ (m : Memory), m.wf → ∀ b < a + 8,
        (m.writeAll ((wordsAt (a + 8) ws).filter fun c => !s.kept.contains c.1)).readByte b = m.readByte b := by
      intro m hm b hb
      refine readByte_writeAll_outside hm _ fun c hc => ?_
      obtain ⟨k, -, h1, -⟩ := mem_wordsAt (List.mem_filter.1 hc).1
      omega
    rw [wordsAt, List.filter_cons]
    split
    · next hk =>
      have hw := writeWord_wf h a w
      obtain ⟨i1, i2, i3⟩ := ih (a + 8) (m.writeWord a w) hw
      refine ⟨i1, fun k x hx => ?_, fun b hb => ?_⟩
      · cases k with
        | zero =>
          simp only [List.getElem?_cons_zero, Option.some.injEq] at hx
          subst hx
          rw [Memory.writeAll, Nat.mul_zero, Nat.add_zero, if_neg (by simpa using hk)]
          exact (readWord_congr fun k hk => hrest _ hw (a + k) (by omega)).trans (readWord_writeWord_same h a w)
        | succ k =>
          have := i2 k x (by simpa using hx)
          rw [Memory.writeAll, show a + 8 * (k + 1) = a + 8 + 8 * k by omega, this,
            readWord_writeWord_other h w (by omega)]
      · rw [Memory.writeAll, i3 b (by simp at hb; omega)]
        exact readByte_writeWord_outside h w (by simp at hb; omega)
    · next hk =>
      obtain ⟨i1, i2, i3⟩ := ih (a + 8) m h
      refine ⟨i1, fun k x hx => ?_, fun b hb => i3 b (by simp at hb; omega)⟩
      cases k with
      | zero =>
        rw [Nat.mul_zero, Nat.add_zero, if_pos (by simpa using hk)]
        exact readWord_congr fun k hk => hrest _ h (a + k) (by omega)
      | succ k =>
        have := i2 k x (by simpa using hx)
        rw [show a + 8 * (k + 1) = a + 8 + 8 * k by omega, this]

theorem portWrites_within (s : State) {size a : Nat} (h : s.mem.within size) (ws : List Word)
    (ha : ws ≠ [] → a + 8 * ws.length ≤ size) : (s.portWrites a ws).within size := by
  refine writeAll_within h _ fun c hc => ?_
  obtain ⟨k, hk, h1, -⟩ := mem_wordsAt (List.mem_filter.1 hc).1
  have := ha (by rintro rfl; simp at hk)
  omega

/-- The words the engine's memory port reads, by index (20_memory R51). -/
theorem portReads_getElem? (s : State) (a n k : Nat) :
    (s.portReads a n)[k]? = if k < n then some (s.portRead (a + 8 * k)) else none := by
  induction n generalizing a k with
  | zero => simp [State.portReads]
  | succ n ih =>
    cases k with
    | zero => simp [State.portReads]
    | succ k =>
      simp only [State.portReads, List.getElem?_cons_succ, ih, Nat.add_lt_add_iff_right]
      rw [show a + 8 + 8 * k = a + 8 * (k + 1) by omega]

@[simp] theorem portReads_length (s : State) (a n : Nat) : (s.portReads a n).length = n := by
  induction n generalizing a with
  | zero => rfl
  | succ n ih => simp [State.portReads, ih]

/-- Canonical memories that read the same at every address are the same data. -/
theorem memory_ext {m m' : Memory} (h : m.wf) (h' : m'.wf) (hb : ∀ a, m.readByte a = m'.readByte a) : m = m' := by
  induction m generalizing m' with
  | nil =>
    cases m' with
    | nil => rfl
    | cons d m' =>
      have := hb d.1
      rw [readByte_cons, if_pos rfl, readByte_nil] at this
      exact absurd this.symm (h'.2 d (by simp))
  | cons c m ih =>
    cases m' with
    | nil =>
      have := hb c.1
      rw [readByte_cons, if_pos rfl, readByte_nil] at this
      exact absurd this (h.2 c (by simp))
    | cons d m' =>
      obtain ⟨hp, hz⟩ := h
      obtain ⟨hp', hz'⟩ := h'
      rw [List.pairwise_cons] at hp hp'
      have hcd : c.1 = d.1 := by
        rcases Nat.lt_trichotomy c.1 d.1 with hlt | heq | hgt
        · have := hb c.1
          rw [readByte_cons, if_pos rfl, readByte_of_lt (d :: m') c.1] at this
          · exact absurd this (hz c (by simp))
          · intro x hx
            rcases List.mem_cons.1 hx with rfl | hx
            · exact hlt
            · exact hlt.trans (hp'.1 x hx)
        · exact heq
        · have := hb d.1
          rw [readByte_cons d, if_pos rfl, readByte_of_lt (c :: m) d.1] at this
          · exact absurd this.symm (hz' d (by simp))
          · intro x hx
            rcases List.mem_cons.1 hx with rfl | hx
            · exact hgt
            · exact hgt.trans (hp.1 x hx)
      have hv : c.2 = d.2 := by
        have := hb c.1
        rwa [readByte_cons, if_pos rfl, readByte_cons, if_pos hcd.symm] at this
      have htail : m = m' := by
        refine ih ⟨hp.2, fun x hx => hz x (by simp [hx])⟩ ⟨hp'.2, fun x hx => hz' x (by simp [hx])⟩ fun a => ?_
        by_cases hac : c.1 = a
        · rw [readByte_of_lt m a fun x hx => hac ▸ hp.1 x hx,
            readByte_of_lt m' a fun x hx => by rw [← hac, hcd]; exact hp'.1 x hx]
        · have := hb a
          rwa [readByte_cons, if_neg hac, readByte_cons, if_neg (by rwa [← hcd])] at this
      rw [htail, Prod.ext hcd hv]

/-- The memory after reset, with nothing listed, is canonical and inside every window. -/
theorem reset_memory_wf (c : Config) (size : Nat) :
    (State.resetWith c).mem.wf ∧ (State.resetWith c).mem.within size := by
  simp [State.resetWith, Memory.wf]

end Sys2Proof.Laws
end

