-- ==== Sys2Proof/Laws/State.lean ====
section
/-! SUPPORT. What each shared update of the state leaves in each field: one lemma per field per update, so that no
proof unfolds a record update. -/

namespace Sys2Proof.Laws

open Sys2Proof.Machine

-- accept
@[simp] theorem accept_cfg (w : Word) (s : State) : (accept w s).cfg = s.cfg := rfl
@[simp] theorem accept_v (w : Word) (s : State) : (accept w s).v = s.v := rfl
@[simp] theorem accept_csum (w : Word) (s : State) : (accept w s).csum = s.csum := rfl
@[simp] theorem accept_cursor (w : Word) (s : State) : (accept w s).cursor = s.cursor := rfl
@[simp] theorem accept_seeded (w : Word) (s : State) : (accept w s).seeded = s.seeded := rfl
@[simp] theorem accept_nskip (w : Word) (s : State) : (accept w s).nskip = s.nskip := rfl
@[simp] theorem accept_arg0 (w : Word) (s : State) : (accept w s).arg0 = s.arg0 := rfl
@[simp] theorem accept_arg1 (w : Word) (s : State) : (accept w s).arg1 = s.arg1 := rfl
@[simp] theorem accept_arg2 (w : Word) (s : State) : (accept w s).arg2 = s.arg2 := rfl
@[simp] theorem accept_arg3 (w : Word) (s : State) : (accept w s).arg3 = s.arg3 := rfl
@[simp] theorem accept_result (w : Word) (s : State) : (accept w s).result = s.result := rfl
@[simp] theorem accept_running (w : Word) (s : State) : (accept w s).running = some w := rfl
@[simp] theorem accept_err (w : Word) (s : State) : (accept w s).err = false := rfl
@[simp] theorem accept_werr (w : Word) (s : State) : (accept w s).werr = s.werr := rfl
@[simp] theorem accept_errcode (w : Word) (s : State) : (accept w s).errcode = 0 := rfl
@[simp] theorem accept_mem (w : Word) (s : State) : (accept w s).mem = s.mem := rfl
@[simp] theorem accept_latched (w : Word) (s : State) : (accept w s).latched = [] := rfl
@[simp] theorem accept_kept (w : Word) (s : State) : (accept w s).kept = [] := rfl
@[simp] theorem accept_host (w : Word) (s : State) : (accept w s).host = s.host := rfl
@[simp] theorem accept_observed (w : Word) (s : State) : (accept w s).observed = s.observed := rfl
@[simp] theorem accept_draws (w : Word) (s : State) : (accept w s).draws = s.draws := rfl

-- completed
@[simp] theorem completed_cfg (s : State) : (completed s).cfg = s.cfg := rfl
@[simp] theorem completed_v (s : State) : (completed s).v = s.v := rfl
@[simp] theorem completed_csum (s : State) : (completed s).csum = s.csum := rfl
@[simp] theorem completed_cursor (s : State) : (completed s).cursor = s.cursor := rfl
@[simp] theorem completed_seeded (s : State) : (completed s).seeded = s.seeded := rfl
@[simp] theorem completed_nskip (s : State) : (completed s).nskip = s.nskip := rfl
@[simp] theorem completed_arg0 (s : State) : (completed s).arg0 = s.arg0 := rfl
@[simp] theorem completed_arg1 (s : State) : (completed s).arg1 = s.arg1 := rfl
@[simp] theorem completed_arg2 (s : State) : (completed s).arg2 = s.arg2 := rfl
@[simp] theorem completed_arg3 (s : State) : (completed s).arg3 = s.arg3 := rfl
@[simp] theorem completed_result (s : State) : (completed s).result = s.result := rfl
@[simp] theorem completed_running (s : State) : (completed s).running = none := rfl
@[simp] theorem completed_err (s : State) : (completed s).err = false := rfl
@[simp] theorem completed_werr (s : State) : (completed s).werr = s.werr := rfl
@[simp] theorem completed_errcode (s : State) : (completed s).errcode = 0 := rfl
@[simp] theorem completed_mem (s : State) : (completed s).mem = s.mem := rfl
@[simp] theorem completed_latched (s : State) : (completed s).latched = [] := rfl
@[simp] theorem completed_kept (s : State) : (completed s).kept = [] := rfl
@[simp] theorem completed_host (s : State) : (completed s).host = s.host := rfl
@[simp] theorem completed_observed (s : State) : (completed s).observed = s.observed := rfl
@[simp] theorem completed_draws (s : State) : (completed s).draws = s.draws := rfl

-- failed
@[simp] theorem failed_cfg (e : ErrCause) (s : State) : (failed e s).cfg = s.cfg := rfl
@[simp] theorem failed_v (e : ErrCause) (s : State) : (failed e s).v = s.v := rfl
@[simp] theorem failed_csum (e : ErrCause) (s : State) : (failed e s).csum = s.csum := rfl
@[simp] theorem failed_cursor (e : ErrCause) (s : State) : (failed e s).cursor = s.cursor := rfl
@[simp] theorem failed_seeded (e : ErrCause) (s : State) : (failed e s).seeded = s.seeded := rfl
@[simp] theorem failed_nskip (e : ErrCause) (s : State) : (failed e s).nskip = s.nskip := rfl
@[simp] theorem failed_arg0 (e : ErrCause) (s : State) : (failed e s).arg0 = s.arg0 := rfl
@[simp] theorem failed_arg1 (e : ErrCause) (s : State) : (failed e s).arg1 = s.arg1 := rfl
@[simp] theorem failed_arg2 (e : ErrCause) (s : State) : (failed e s).arg2 = s.arg2 := rfl
@[simp] theorem failed_arg3 (e : ErrCause) (s : State) : (failed e s).arg3 = s.arg3 := rfl
@[simp] theorem failed_result (e : ErrCause) (s : State) : (failed e s).result = s.result := rfl
@[simp] theorem failed_running (e : ErrCause) (s : State) : (failed e s).running = none := rfl
@[simp] theorem failed_err (e : ErrCause) (s : State) : (failed e s).err = true := rfl
@[simp] theorem failed_werr (e : ErrCause) (s : State) : (failed e s).werr = s.werr := rfl
@[simp] theorem failed_errcode (e : ErrCause) (s : State) : (failed e s).errcode = e.code := rfl
@[simp] theorem failed_mem (e : ErrCause) (s : State) : (failed e s).mem = s.mem := rfl
@[simp] theorem failed_latched (e : ErrCause) (s : State) : (failed e s).latched = [] := rfl
@[simp] theorem failed_kept (e : ErrCause) (s : State) : (failed e s).kept = [] := rfl
@[simp] theorem failed_host (e : ErrCause) (s : State) : (failed e s).host = s.host := rfl
@[simp] theorem failed_observed (e : ErrCause) (s : State) : (failed e s).observed = s.observed := rfl
@[simp] theorem failed_draws (e : ErrCause) (s : State) : (failed e s).draws = s.draws := rfl

-- withGen
@[simp] theorem withGen_cfg (s : State) (g : Gen) : (s.withGen g).cfg = s.cfg := rfl
@[simp] theorem withGen_v (s : State) (g : Gen) : (s.withGen g).v = storedV g.v := rfl
@[simp] theorem withGen_csum (s : State) (g : Gen) : (s.withGen g).csum = BitVec.ofNat 64 g.cs := rfl
@[simp] theorem withGen_cursor (s : State) (g : Gen) : (s.withGen g).cursor = s.cursor := rfl
@[simp] theorem withGen_seeded (s : State) (g : Gen) : (s.withGen g).seeded = s.seeded := rfl
@[simp] theorem withGen_nskip (s : State) (g : Gen) : (s.withGen g).nskip = s.nskip := rfl
@[simp] theorem withGen_arg0 (s : State) (g : Gen) : (s.withGen g).arg0 = s.arg0 := rfl
@[simp] theorem withGen_arg1 (s : State) (g : Gen) : (s.withGen g).arg1 = s.arg1 := rfl
@[simp] theorem withGen_arg2 (s : State) (g : Gen) : (s.withGen g).arg2 = s.arg2 := rfl
@[simp] theorem withGen_arg3 (s : State) (g : Gen) : (s.withGen g).arg3 = s.arg3 := rfl
@[simp] theorem withGen_result (s : State) (g : Gen) : (s.withGen g).result = s.result := rfl
@[simp] theorem withGen_running (s : State) (g : Gen) : (s.withGen g).running = s.running := rfl
@[simp] theorem withGen_err (s : State) (g : Gen) : (s.withGen g).err = s.err := rfl
@[simp] theorem withGen_werr (s : State) (g : Gen) : (s.withGen g).werr = s.werr := rfl
@[simp] theorem withGen_errcode (s : State) (g : Gen) : (s.withGen g).errcode = s.errcode := rfl
@[simp] theorem withGen_mem (s : State) (g : Gen) : (s.withGen g).mem = s.mem := rfl
@[simp] theorem withGen_latched (s : State) (g : Gen) : (s.withGen g).latched = s.latched := rfl
@[simp] theorem withGen_kept (s : State) (g : Gen) : (s.withGen g).kept = s.kept := rfl
@[simp] theorem withGen_host (s : State) (g : Gen) : (s.withGen g).host = s.host := rfl
@[simp] theorem withGen_observed (s : State) (g : Gen) : (s.withGen g).observed = s.observed := rfl
@[simp] theorem withGen_draws (s : State) (g : Gen) : (s.withGen g).draws = s.draws := rfl

-- install
@[simp] theorem install_cfg (s : State) (g : Gen) : (s.install g).cfg = s.cfg := rfl
@[simp] theorem install_v (s : State) (g : Gen) : (s.install g).v = storedV g.v := rfl
@[simp] theorem install_csum (s : State) (g : Gen) : (s.install g).csum = BitVec.ofNat 64 g.cs := rfl
@[simp] theorem install_cursor (s : State) (g : Gen) : (s.install g).cursor = BitVec.ofNat 16 s.cfg.n := rfl
@[simp] theorem install_seeded (s : State) (g : Gen) : (s.install g).seeded = true := rfl
@[simp] theorem install_nskip (s : State) (g : Gen) : (s.install g).nskip = s.nskip := rfl
@[simp] theorem install_arg0 (s : State) (g : Gen) : (s.install g).arg0 = s.arg0 := rfl
@[simp] theorem install_arg1 (s : State) (g : Gen) : (s.install g).arg1 = s.arg1 := rfl
@[simp] theorem install_arg2 (s : State) (g : Gen) : (s.install g).arg2 = s.arg2 := rfl
@[simp] theorem install_arg3 (s : State) (g : Gen) : (s.install g).arg3 = s.arg3 := rfl
@[simp] theorem install_result (s : State) (g : Gen) : (s.install g).result = s.result := rfl
@[simp] theorem install_running (s : State) (g : Gen) : (s.install g).running = s.running := rfl
@[simp] theorem install_err (s : State) (g : Gen) : (s.install g).err = s.err := rfl
@[simp] theorem install_werr (s : State) (g : Gen) : (s.install g).werr = s.werr := rfl
@[simp] theorem install_errcode (s : State) (g : Gen) : (s.install g).errcode = s.errcode := rfl
@[simp] theorem install_mem (s : State) (g : Gen) : (s.install g).mem = s.mem := rfl
@[simp] theorem install_latched (s : State) (g : Gen) : (s.install g).latched = s.latched := rfl
@[simp] theorem install_kept (s : State) (g : Gen) : (s.install g).kept = s.kept := rfl
@[simp] theorem install_host (s : State) (g : Gen) : (s.install g).host = s.host := rfl
@[simp] theorem install_observed (s : State) (g : Gen) : (s.install g).observed = s.observed := rfl
@[simp] theorem install_draws (s : State) (g : Gen) : (s.install g).draws = s.draws := rfl

-- dropWrite
@[simp] theorem dropWrite_cfg (s : State) : (dropWrite s).cfg = s.cfg := rfl
@[simp] theorem dropWrite_v (s : State) : (dropWrite s).v = s.v := rfl
@[simp] theorem dropWrite_csum (s : State) : (dropWrite s).csum = s.csum := rfl
@[simp] theorem dropWrite_cursor (s : State) : (dropWrite s).cursor = s.cursor := rfl
@[simp] theorem dropWrite_seeded (s : State) : (dropWrite s).seeded = s.seeded := rfl
@[simp] theorem dropWrite_nskip (s : State) : (dropWrite s).nskip = s.nskip := rfl
@[simp] theorem dropWrite_arg0 (s : State) : (dropWrite s).arg0 = s.arg0 := rfl
@[simp] theorem dropWrite_arg1 (s : State) : (dropWrite s).arg1 = s.arg1 := rfl
@[simp] theorem dropWrite_arg2 (s : State) : (dropWrite s).arg2 = s.arg2 := rfl
@[simp] theorem dropWrite_arg3 (s : State) : (dropWrite s).arg3 = s.arg3 := rfl
@[simp] theorem dropWrite_result (s : State) : (dropWrite s).result = s.result := rfl
@[simp] theorem dropWrite_running (s : State) : (dropWrite s).running = s.running := rfl
@[simp] theorem dropWrite_err (s : State) : (dropWrite s).err = s.err := rfl
@[simp] theorem dropWrite_werr (s : State) : (dropWrite s).werr = true := rfl
@[simp] theorem dropWrite_errcode (s : State) : (dropWrite s).errcode = s.errcode := rfl
@[simp] theorem dropWrite_mem (s : State) : (dropWrite s).mem = s.mem := rfl
@[simp] theorem dropWrite_latched (s : State) : (dropWrite s).latched = s.latched := rfl
@[simp] theorem dropWrite_kept (s : State) : (dropWrite s).kept = s.kept := rfl
@[simp] theorem dropWrite_host (s : State) : (dropWrite s).host = s.host := rfl
@[simp] theorem dropWrite_observed (s : State) : (dropWrite s).observed = s.observed := rfl
@[simp] theorem dropWrite_draws (s : State) : (dropWrite s).draws = s.draws := rfl

-- observe
@[simp] theorem observe_cfg (s : State) (x : Word) : (s.observe x).cfg = s.cfg := rfl
@[simp] theorem observe_v (s : State) (x : Word) : (s.observe x).v = s.v := rfl
@[simp] theorem observe_csum (s : State) (x : Word) : (s.observe x).csum = s.csum := rfl
@[simp] theorem observe_cursor (s : State) (x : Word) : (s.observe x).cursor = s.cursor := rfl
@[simp] theorem observe_seeded (s : State) (x : Word) : (s.observe x).seeded = s.seeded := rfl
@[simp] theorem observe_nskip (s : State) (x : Word) : (s.observe x).nskip = s.nskip := rfl
@[simp] theorem observe_arg0 (s : State) (x : Word) : (s.observe x).arg0 = s.arg0 := rfl
@[simp] theorem observe_arg1 (s : State) (x : Word) : (s.observe x).arg1 = s.arg1 := rfl
@[simp] theorem observe_arg2 (s : State) (x : Word) : (s.observe x).arg2 = s.arg2 := rfl
@[simp] theorem observe_arg3 (s : State) (x : Word) : (s.observe x).arg3 = s.arg3 := rfl
@[simp] theorem observe_result (s : State) (x : Word) : (s.observe x).result = s.result := rfl
@[simp] theorem observe_running (s : State) (x : Word) : (s.observe x).running = s.running := rfl
@[simp] theorem observe_err (s : State) (x : Word) : (s.observe x).err = s.err := rfl
@[simp] theorem observe_werr (s : State) (x : Word) : (s.observe x).werr = s.werr := rfl
@[simp] theorem observe_errcode (s : State) (x : Word) : (s.observe x).errcode = s.errcode := rfl
@[simp] theorem observe_mem (s : State) (x : Word) : (s.observe x).mem = s.mem := rfl
@[simp] theorem observe_latched (s : State) (x : Word) : (s.observe x).latched = s.latched := rfl
@[simp] theorem observe_kept (s : State) (x : Word) : (s.observe x).kept = s.kept := rfl
@[simp] theorem observe_host (s : State) (x : Word) : (s.observe x).host = s.host := rfl
@[simp] theorem observe_observed (s : State) (x : Word) : (s.observe x).observed = x :: s.observed := rfl
@[simp] theorem observe_draws (s : State) (x : Word) : (s.observe x).draws = s.draws := rfl

-- latchCommand
@[simp] theorem latchCommand_cfg (w : Word) (s : State) : (latchCommand w s).cfg = s.cfg := rfl
@[simp] theorem latchCommand_v (w : Word) (s : State) : (latchCommand w s).v = s.v := rfl
@[simp] theorem latchCommand_csum (w : Word) (s : State) : (latchCommand w s).csum = s.csum := rfl
@[simp] theorem latchCommand_cursor (w : Word) (s : State) : (latchCommand w s).cursor = s.cursor := rfl
@[simp] theorem latchCommand_seeded (w : Word) (s : State) : (latchCommand w s).seeded = s.seeded := rfl
@[simp] theorem latchCommand_nskip (w : Word) (s : State) : (latchCommand w s).nskip = s.nskip := rfl
@[simp] theorem latchCommand_arg0 (w : Word) (s : State) : (latchCommand w s).arg0 = s.arg0 := rfl
@[simp] theorem latchCommand_arg1 (w : Word) (s : State) : (latchCommand w s).arg1 = s.arg1 := rfl
@[simp] theorem latchCommand_arg2 (w : Word) (s : State) : (latchCommand w s).arg2 = s.arg2 := rfl
@[simp] theorem latchCommand_arg3 (w : Word) (s : State) : (latchCommand w s).arg3 = s.arg3 := rfl
@[simp] theorem latchCommand_result (w : Word) (s : State) : (latchCommand w s).result = s.result := rfl
@[simp] theorem latchCommand_running (w : Word) (s : State) : (latchCommand w s).running = some w := rfl
@[simp] theorem latchCommand_err (w : Word) (s : State) : (latchCommand w s).err = false := rfl
@[simp] theorem latchCommand_werr (w : Word) (s : State) : (latchCommand w s).werr = s.werr := rfl
@[simp] theorem latchCommand_errcode (w : Word) (s : State) : (latchCommand w s).errcode = 0 := rfl
@[simp] theorem latchCommand_mem (w : Word) (s : State) : (latchCommand w s).mem = s.mem := rfl
@[simp] theorem latchCommand_latched (w : Word) (s : State) : (latchCommand w s).latched = [] := rfl
@[simp] theorem latchCommand_kept (w : Word) (s : State) : (latchCommand w s).kept = [] := rfl
@[simp] theorem latchCommand_host (w : Word) (s : State) : (latchCommand w s).host = [] := rfl
@[simp] theorem latchCommand_observed (w : Word) (s : State) : (latchCommand w s).observed = s.observed := rfl
@[simp] theorem latchCommand_draws (w : Word) (s : State) : (latchCommand w s).draws = s.draws := rfl

-- hardReset
@[simp] theorem hardReset_cfg (s : State) : (hardReset s).cfg = s.cfg := rfl
@[simp] theorem hardReset_v (s : State) : (hardReset s).v = List.replicate s.cfg.n 0 := rfl
@[simp] theorem hardReset_csum (s : State) : (hardReset s).csum = 0 := rfl
@[simp] theorem hardReset_cursor (s : State) : (hardReset s).cursor = 0 := rfl
@[simp] theorem hardReset_seeded (s : State) : (hardReset s).seeded = false := rfl
@[simp] theorem hardReset_nskip (s : State) : (hardReset s).nskip = 2 := rfl
@[simp] theorem hardReset_arg0 (s : State) : (hardReset s).arg0 = 0 := rfl
@[simp] theorem hardReset_arg1 (s : State) : (hardReset s).arg1 = 0 := rfl
@[simp] theorem hardReset_arg2 (s : State) : (hardReset s).arg2 = 0 := rfl
@[simp] theorem hardReset_arg3 (s : State) : (hardReset s).arg3 = 0 := rfl
@[simp] theorem hardReset_result (s : State) : (hardReset s).result = 0 := rfl
@[simp] theorem hardReset_running (s : State) : (hardReset s).running = none := rfl
@[simp] theorem hardReset_err (s : State) : (hardReset s).err = false := rfl
@[simp] theorem hardReset_werr (s : State) : (hardReset s).werr = false := rfl
@[simp] theorem hardReset_errcode (s : State) : (hardReset s).errcode = 0 := rfl
@[simp] theorem hardReset_mem (s : State) : (hardReset s).mem = (raceReset s.writesInFlight s.mem s.draws).1 := rfl
@[simp] theorem hardReset_latched (s : State) : (hardReset s).latched = [] := rfl
@[simp] theorem hardReset_kept (s : State) : (hardReset s).kept = [] := rfl
@[simp] theorem hardReset_host (s : State) : (hardReset s).host = s.host := rfl
@[simp] theorem hardReset_observed (s : State) : (hardReset s).observed = s.observed := rfl
@[simp] theorem hardReset_draws (s : State) : (hardReset s).draws = (raceReset s.writesInFlight s.mem s.draws).2 := rfl

@[simp] theorem completed_busy (s : State) : (completed s).busy = false := rfl
@[simp] theorem failed_busy (e : ErrCause) (s : State) : (failed e s).busy = false := rfl
@[simp] theorem accept_busy (w : Word) (s : State) : (accept w s).busy = true := rfl
@[simp] theorem hardReset_busy (s : State) : (hardReset s).busy = false := rfl

/-- BUSY says whether a command word is latched. -/
theorem busy_eq_true_iff (s : State) : s.busy = true ↔ ∃ w, s.running = some w := by
  simp [State.busy, Option.isSome_iff_exists]

/-- An idle engine has no command word latched. -/
theorem busy_eq_false_iff (s : State) : s.busy = false ↔ s.running = none := by
  simp [State.busy]

end Sys2Proof.Laws
end

