-- ==== Sys2Proof/Laws/Exec.lean ====
section
/-! SUPPORT. What a command can do, said once: it succeeds with an update of the state its rule names, or it raises an
error it is allowed to raise; and what no command changes. -/

namespace Sys2Proof.Laws

open Sys2Proof Sys2Proof.Machine

/-- A successful completion answers one state. -/
@[simp] theorem succeed_eq_next (s t : State) : succeed s = .next t ↔ completed s = t := by
  simp [succeed]

/-- A failing completion answers one state. -/
@[simp] theorem raise_eq_next (e : ErrCause) (s t : State) : raise e s = .next t ↔ failed e s = t := by
  simp [raise]

/-- What no command changes: the configuration, NSKIP, ARG0-ARG3, WERR (10_state R20, R29, R39) and the model's host
side. -/
structure Frame (s t : State) : Prop where
  cfg : t.cfg = s.cfg
  nskip : t.nskip = s.nskip
  arg0 : t.arg0 = s.arg0
  arg1 : t.arg1 = s.arg1
  arg2 : t.arg2 = s.arg2
  arg3 : t.arg3 = s.arg3
  werr : t.werr = s.werr
  host : t.host = s.host
  observed : t.observed = s.observed
  draws : t.draws = s.draws

/-- What a command's rule changes: s' is s but for V, CSUM, CURSOR, SEEDED, RESULT and memory. -/
def Updates (s s' : State) : Prop :=
  s' = { s with v := s'.v, csum := s'.csum, cursor := s'.cursor, seeded := s'.seeded, result := s'.result,
                mem := s'.mem }

theorem Updates.completed_frame {s s' : State} (h : Updates s s') : Frame s (completed s') := by
  rw [h]; exact ⟨rfl, rfl, rfl, rfl, rfl, rfl, rfl, rfl, rfl, rfl⟩

theorem failed_frame (e : ErrCause) (s : State) : Frame s (failed e s) :=
  ⟨rfl, rfl, rfl, rfl, rfl, rfl, rfl, rfl, rfl, rfl⟩

theorem updates_refl (s : State) : Updates s s := rfl

theorem afterNext_updates (s : State) (r : Word) : Updates s { s.afterNext with result := r } := by
  unfold State.afterNext
  split <;> rfl

/-- A completion is of the first kind. -/
theorem succeeds {s s' : State} {es : List ErrCause} (hu : Updates s s') :
    (∃ u, Updates s u ∧ succeed s' = succeed u) ∨ ∃ e ∈ es, succeed s' = raise e s := .inl ⟨s', hu, rfl⟩

/-- A raised error is of the second kind. -/
theorem raises {s : State} {e : ErrCause} {es : List ErrCause} (h : e ∈ es) :
    (∃ u, Updates s u ∧ raise e s = succeed u) ∨ ∃ e' ∈ es, raise e s = raise e' s := .inr ⟨e, h, rfl⟩

/-- Every command succeeds with an update of V, CSUM, CURSOR, SEEDED, RESULT and memory, or raises one of its errors
(40_control R92, 60_exceptions R220, R224). -/
theorem exec_succeeds_or_raises (i : Instr) (s : State) :
    (∃ s', Updates s s' ∧ exec i s = succeed s') ∨ ∃ e ∈ errorsOf i, exec i s = raise e s := by
  cases i
  case nop => exact succeeds (updates_refl s)
  case modadd =>
    simp only [exec, execModadd, errorsOf]
    split
    · exact succeeds rfl
    · exact raises (by simp)
  case modmul =>
    simp only [exec, execModmul, errorsOf]
    split
    · exact succeeds rfl
    · exact raises (by simp)
  case fmma =>
    simp only [exec, execFmma, errorsOf]
    split
    · exact succeeds rfl
    · exact raises (by simp)
  case reduce =>
    simp only [exec, execReduce, errorsOf]
    split
    · exact succeeds rfl
    · exact raises (by simp)
  case iterate =>
    simp only [exec, execIterate, errorsOf]
    split
    · exact succeeds rfl
    · exact raises (by simp)
  case iterateN =>
    simp only [exec, execIterateN, errorsOf]
    split
    · split
      · exact succeeds rfl
      · exact raises (by simp)
    · exact raises (by simp)
  case nextRaw =>
    simp only [exec, execNextRaw, errorsOf]
    split
    · exact succeeds (afterNext_updates s _)
    · exact raises (by simp)
  case nextUniform =>
    simp only [exec, execNextUniform, errorsOf]
    split
    · exact succeeds (afterNext_updates s _)
    · exact raises (by simp)
  case fillUniform =>
    simp only [exec, execFillUniform, errorsOf]
    split
    · split
      · split
        · exact succeeds rfl
        · exact raises (by simp)
      · exact raises (by simp)
    · exact raises (by simp)
  case seedBasis =>
    simp only [exec, execSeedBasis, errorsOf]
    split
    · exact succeeds rfl
    · exact raises (by simp)
  case seedLinear =>
    simp only [exec, execSeedLinear, errorsOf]
    split
    · exact raises (by simp)
    · exact succeeds rfl
  case recomputeCsum =>
    simp only [exec, execRecomputeCsum, errorsOf]
    split
    · exact succeeds rfl
    · exact raises (by simp)
  case seedStream reqt =>
    simp only [exec, execSeedStream, errorsOf]
    split
    · split
      · exact succeeds rfl
      · split
        · exact raises (by simp_all)
        · exact succeeds rfl
    · exact raises (by cases reqt <;> simp)
  case skip =>
    simp only [exec, execSkip, errorsOf]
    split
    · split
      · split
        · exact raises (by simp)
        · exact succeeds rfl
      · exact raises (by simp)
    · exact raises (by simp)
  case exportState =>
    simp only [exec, execExport, errorsOf]
    split
    · split
      · exact succeeds rfl
      · exact raises (by simp)
    · exact raises (by simp)
  case importState =>
    simp only [exec, execImport, errorsOf]
    split
    · split
      · split
        · split
          · split
            · exact succeeds rfl
            · exact raises (by simp)
          · exact raises (by simp)
        · exact raises (by simp)
      · exact raises (by simp)
    · exact raises (by simp)
  case loadv =>
    simp only [exec, execLoadv, errorsOf]
    split
    · split
      · exact succeeds rfl
      · exact raises (by simp)
    · exact raises (by simp)

/-- The next state of a command, by cases: a completion with its updates, or a failing completion. -/
theorem exec_next {i : Instr} {s t : State} (h : exec i s = .next t) :
    (∃ s', Updates s s' ∧ t = completed s') ∨ ∃ e ∈ errorsOf i, t = failed e s := by
  rcases exec_succeeds_or_raises i s with ⟨s', hu, he⟩ | ⟨e, hm, he⟩
  · exact .inl ⟨s', hu, ((succeed_eq_next s' t).1 (he ▸ h)).symm⟩
  · exact .inr ⟨e, hm, ((raise_eq_next e s t).1 (he ▸ h)).symm⟩

/-- No command changes the frame. -/
theorem exec_frame {i : Instr} {s t : State} (h : exec i s = .next t) : Frame s t := by
  rcases exec_next h with ⟨s', hu, rfl⟩ | ⟨e, -, rfl⟩
  · exact hu.completed_frame
  · exact failed_frame e s

end Sys2Proof.Laws
end

