-- ==== Sys2Proof/Laws/PerInstr.lean ====
section
/-! SUPPORT. Statements about every command as syntax, one lemma per constructor. -/

namespace Sys2Proof.Laws

/-- The command's word has legal fields (30_encoding R72). -/
def EncodesLegally.Statement (i : Instr) : Prop := (commandFields (encode i)).wf

namespace EncodesLegally

theorem nop : Statement .nop := by unfold Statement; decide
theorem modadd : Statement .modadd := by unfold Statement; decide
theorem modmul : Statement .modmul := by unfold Statement; decide
theorem fmma : Statement .fmma := by unfold Statement; decide
theorem reduce : Statement .reduce := by unfold Statement; decide
theorem iterate : Statement .iterate := by unfold Statement; decide
theorem iterateN : Statement .iterateN := by unfold Statement; decide
theorem nextRaw : Statement .nextRaw := by unfold Statement; decide
theorem nextUniform : Statement .nextUniform := by unfold Statement; decide
theorem fillUniform : Statement .fillUniform := by unfold Statement; decide
theorem seedBasis : Statement .seedBasis := by unfold Statement; decide
theorem seedLinear : Statement .seedLinear := by unfold Statement; decide
theorem recomputeCsum : Statement .recomputeCsum := by unfold Statement; decide
theorem seedStream (reqt : Bool) : Statement (.seedStream reqt) := by unfold Statement; revert reqt; decide
theorem skip : Statement .skip := by unfold Statement; decide
theorem exportState : Statement .exportState := by unfold Statement; decide
theorem importState : Statement .importState := by unfold Statement; decide
theorem loadv : Statement .loadv := by unfold Statement; decide

end EncodesLegally

end Sys2Proof.Laws
end

