-- ==== Sys2Proof/Laws/Step.lean ====
section
/-! SUPPORT. What one step can do, said once: the engine's turn, each host event, and the step over both. -/

namespace Sys2Proof.Laws

open Sys2Proof Sys2Proof.Machine

/-- The engine's turn: an idle engine stays as it is, a legal word runs its command, an illegal one fails. -/
theorem engineTurn_next {s t : State} (h : engineTurn s = .next t) :
    (s.running = none ∧ t = s) ∨
    (∃ w i, s.running = some w ∧ decode w = .ok i ∧ exec i s = .next t) ∨
    (∃ w e, s.running = some w ∧ decode w = .error e ∧ t = failed .illegalCommand s) := by
  unfold engineTurn at h
  split at h
  · exact .inl ⟨by assumption, by simpa using h.symm⟩
  · split at h
    · exact .inr (.inl ⟨_, _, by assumption, by assumption, h⟩)
    · exact .inr (.inr ⟨_, _, by assumption, by assumption, ((raise_eq_next _ _ _).1 h).symm⟩)

/-- A host register write has a meaning exactly when its access is legal (10_state R34). -/
theorem hostRegWrite_next {width : Nat} {offset : BitVec 8} {x : Word} {s t : State} :
    hostRegWrite width offset x s = .next t ↔ accessOk width offset ∧ t = s.writeReg x (regAt offset) := by
  unfold hostRegWrite
  split
  · next h => exact ⟨fun e => ⟨h, by simpa using e.symm⟩, fun e => by rw [e.2]⟩
  · next h => exact ⟨fun e => by simp at e, fun e => absurd e.1 h⟩

theorem hostRegRead_next {width : Nat} {offset : BitVec 8} {s t : State} :
    hostRegRead width offset s = .next t ↔ accessOk width offset ∧ t = s.observe (s.readReg (regAt offset)) := by
  unfold hostRegRead
  split
  · next h => exact ⟨fun e => ⟨h, by simpa using e.symm⟩, fun e => by rw [e.2]⟩
  · next h => exact ⟨fun e => by simp at e, fun e => absurd e.1 h⟩

/-- The bytes of an access inside the window are all 8. -/
theorem bytesInside_eq {c : Config} {a : Word} (h : insideWindow c a) : bytesInside c a = 8 :=
  Nat.min_eq_left (Nat.le_sub_of_add_le (by rw [Nat.add_comm]; exact h))

/-- A host memory read changes no memory: inside the window it observes a word, else nothing (20_memory R50, R60). -/
theorem hostMemRead_next {a : Word} {s t : State} (h : hostMemRead a s = .next t) :
    (insideWindow s.cfg a ∧
      t = ({ s with draws := (raceView s.writesInFlight (touchedWords a.toNat) s.mem s.draws).2 }.observe
        ((raceView s.writesInFlight (touchedWords a.toNat) s.mem s.draws).1.readWord a.toNat))) ∨
    (¬ insideWindow s.cfg a ∧ t = s) := by
  unfold hostMemRead at h
  split at h
  · exact .inl ⟨by assumption, by simpa using h.symm⟩
  · exact .inr ⟨by assumption, by simpa using h.symm⟩

/-- A host memory write changes the bytes of the window it covers and the race records, nothing else (20_memory R53,
R60). -/
theorem hostMemWrite_next {a x : Word} {s t : State} (h : hostMemWrite a x s = .next t) :
    (s.cfg.memSize ≤ a.toNat ∧ t = s) ∨
    (a.toNat < s.cfg.memSize ∧ ∃ latched kept draws,
      t = { s with mem := s.mem.writeBytes a.toNat (bytesInside s.cfg a) x.toNat,
                   latched := latched, kept := kept, draws := draws }) := by
  unfold hostMemWrite at h
  split at h
  · exact .inl ⟨by assumption, by simpa using h.symm⟩
  · exact .inr ⟨by omega, _, _, _, by simpa using h.symm⟩

/-- A host memory write inside the window writes the word (20_memory R53). -/
theorem hostMemWrite_inside {a x : Word} {s : State} (h : insideWindow s.cfg a) :
    hostMemWrite a x s = .next { s with
      mem := s.mem.writeWord a.toNat x,
      latched := (raceLatch s.mem s.readsInFlight (touchedWords a.toNat) s.latched s.draws).1,
      kept := (raceKeep s.writesInFlight (touchedWords a.toNat) s.kept
        (raceLatch s.mem s.readsInFlight (touchedWords a.toNat) s.latched s.draws).2).1,
      draws := (raceKeep s.writesInFlight (touchedWords a.toNat) s.kept
        (raceLatch s.mem s.readsInFlight (touchedWords a.toNat) s.latched s.draws).2).2 } := by
  have hn : ¬ s.cfg.memSize ≤ a.toNat := by have : a.toNat + 8 ≤ s.cfg.memSize := h; omega
  rw [hostMemWrite, if_neg hn, bytesInside_eq h]
  rfl

/-- The step, by cases: the configuration has a meaning, and the next host event happens, or the engine's turn where
there is none. -/
theorem step_next {s t : State} (h : step s = .next t) :
    runnable s.cfg ∧
      ((s.host = [] ∧ engineTurn s = .next t) ∨
        ∃ ev rest, s.host = ev :: rest ∧ hostTurn ev { s with host := rest } = .next t) := by
  unfold step at h
  split at h
  · split at h
    · refine ⟨⟨by assumption, by assumption⟩, ?_⟩
      split at h
      · exact .inl ⟨by assumption, h⟩
      · exact .inr ⟨_, _, by assumption, h⟩
    · simp at h
  · simp at h

/-- The step of a configuration that has a meaning. -/
theorem step_of_runnable {s : State} (h : runnable s.cfg) :
    step s = match s.host with
      | [] => engineTurn s
      | ev :: rest => hostTurn ev { s with host := rest } := by
  unfold step
  exact (if_pos h.1).trans (if_pos h.2)

/-- The full blocks of FILL_UNIFORM depend on the configuration, NSKIP and the generator only (43_extraction R143). -/
theorem fillBlocks_congr {s s' : State} (hc : s'.cfg = s.cfg) (hn : s'.nskip = s.nskip) (k : Nat) (g : Gen) :
    s'.fillBlocks k g = s.fillBlocks k g := by
  induction k generalizing g with
  | zero => rfl
  | succ k ih => simp only [State.fillBlocks, State.iterate, hc, hn, ih]

/-- The words FILL_UNIFORM writes depend on the configuration, NSKIP, the generator and ARG0 only (43_extraction R143). -/
theorem fillWords_congr {s s' : State} (hc : s'.cfg = s.cfg) (hn : s'.nskip = s.nskip) (hg : s'.gen = s.gen)
    (h0 : s'.arg0 = s.arg0) : s'.fillWords = s.fillWords := by
  have hq : s'.fillQuot = s.fillQuot := by rw [State.fillQuot, State.fillQuot, hc, h0]
  have hr : s'.fillRem = s.fillRem := by rw [State.fillRem, State.fillRem, hc, h0]
  have hf : s'.fillGen = s.fillGen := by
    simp only [State.fillGen, State.iterate, fillBlocks_congr hc hn, hc, hn, hg, hq, hr]
  rw [State.fillWords, State.fillWords, State.fillResidues, State.fillResidues, fillBlocks_congr hc hn, hf, hq, hr, hg]

/-- What a running command writes depends on the configuration, the latched word, the generator state, NSKIP, SEEDED and
the arguments only, none of which a host event other than a reset can change while it runs (10_state R35). -/
theorem writesInFlight_congr {s s' : State} (hc : s'.cfg = s.cfg) (hr : s'.running = s.running) (hv : s'.v = s.v)
    (hs : s'.csum = s.csum) (hu : s'.cursor = s.cursor) (hn : s'.nskip = s.nskip) (hd : s'.seeded = s.seeded)
    (h0 : s'.arg0 = s.arg0) (h1 : s'.arg1 = s.arg1) : s'.writesInFlight = s.writesInFlight := by
  have hf : s'.fillPlan = s.fillPlan := by
    unfold State.fillPlan
    rw [fillWords_congr hc hn (by rw [State.gen, State.gen, hv, hs]) h0]
    exact if_congr (by rw [hd, State.fillAddressOk, State.fillAddressOk, hc, h0, h1]) (by rw [h1]) rfl
  have he : s'.exportPlan = s.exportPlan := by
    unfold State.exportPlan State.exportWords
    exact if_congr (by rw [hd, hc, h0]) (by rw [hc, hv, hs, hu, h0]) rfl
  unfold State.writesInFlight
  rw [hr, hf, he]

/-- A run whose first step answers a next state goes on from there. -/
theorem run_of_step_next (M : Host.Core) (k : Nat) (s t : M.State) (h : M.step s = .next t) :
    M.run (k + 1) s = M.run k t := by
  rw [Host.Core.run, h]

/-- The memory after a mid-command reset keeps the canonical form (70_reset R251). -/
theorem raceReset_wf {m : Memory} (h : m.wf) (ps : List (Nat × Word)) (k : Nat) : (raceReset ps m k).1.wf := by
  induction ps generalizing m k with
  | nil => exact h
  | cons c ps ih =>
    rw [raceReset]
    split
    · exact ih (writeWord_wf h _ _) _
    · exact ih h _

theorem raceReset_within {m : Memory} {size : Nat} (h : m.within size) (ps : List (Nat × Word)) (k : Nat)
    (hp : ∀ c ∈ ps, c.1 + 8 ≤ size) : (raceReset ps m k).1.within size := by
  induction ps generalizing m k with
  | nil => exact h
  | cons c ps ih =>
    rw [raceReset]
    have hp' : ∀ d ∈ ps, d.1 + 8 ≤ size := fun d hd => hp d (by simp [hd])
    split
    · exact ih (writeWord_within h (hp c (by simp)) _) _ hp'
    · exact ih h _ hp'

/-- The window a racing host read sees keeps the canonical form (20_memory R60). -/
theorem raceView_wf {m : Memory} (h : m.wf) (writes : List (Nat × Word)) (ts : List Nat) (k : Nat) :
    (raceView writes ts m k).1.wf := by
  induction ts generalizing m k with
  | nil => exact h
  | cons t ts ih =>
    rw [raceView]
    split
    · exact ih h _
    · split
      · exact ih (writeWord_wf h _ _) _
      · exact ih h _

end Sys2Proof.Laws
end

