-- ==== Sys2Proof/Tests/Slice0.lean ====
section
/-! SUPPORT. The model's own tests: what WellFormed refuses, every constructor's decoding from a word written out from
30_encoding R70 and R71, one or two single commands per instruction with results from 95_test_vectors, and for every
statement with hypotheses a state and operands that meet them. -/

namespace Sys2Proof.Tests

open Sys2Proof Sys2Proof.Machine

/-! ### Builders -/

/-- p as a word. -/
def pWord : Word := 0x1FFFFFFFFFFFFFFF

/-- A seeded TC8 engine with N ones, CSUM 7, CURSOR 8 and NSKIP 0 (vector X1 after its refill, with CURSOR 8). -/
def ones : State :=
  { State.reset with v := [1, 1, 1, 1, 1, 1, 1, 1], csum := 7, cursor := 8, seeded := true, nskip := 0 }

/-- TC8 with a table that has the same row everywhere (45_skip: T_E1, T_23, T_P). -/
def tableConfig (row : List Word) : Config := { Config.tc8 with table := some (List.replicate 128 row) }

/-- The row of T_E1 (45_skip). -/
def rowE1 : List Word := [0, 1, 0, 0, 0, 0, 0, 0]

/-- s with the four arguments. -/
def withArgs (s : State) (a b c d : Word) : State := { s with arg0 := a, arg1 := b, arg2 := c, arg3 := d }

/-- The memory that holds the words ws from address 0x3000 on. -/
def recordAt3000 (ws : List Word) : Memory := Memory.writeAll [] (wordsAt 0x3000 ws)

/-- The state an outcome answers; the reset state where it answers none. -/
def stateOf (r : Result) : State :=
  match r with
  | .next t => t
  | _ => State.reset

/-- V, CSUM and CURSOR of an outcome's state. -/
def generatorOf (r : Result) : List Nat × Nat × Nat :=
  ((stateOf r).v.map BitVec.toNat, (stateOf r).csum.toNat, (stateOf r).cursor.toNat)

/-- RESULT and STATUS of an outcome's state. -/
def scalarOf (r : Result) : Word × Word := ((stateOf r).result, (stateOf r).statusWord)

/-! ### WellFormed refuses an ill-formed term at each check -/

theorem test_wf_opcode : ¬ (CommandFields.mk 0x05 false 0).wf := by decide
theorem test_wf_reserved : ¬ (CommandFields.mk 0x00 false 1).wf := by decide
theorem test_wf_reqt : ¬ (CommandFields.mk 0x22 true 0).wf := by decide
theorem test_wf_legal : (CommandFields.mk 0x33 true 0).wf ∧ (CommandFields.mk 0x42 false 0).wf := by decide

theorem test_config_wf : Config.tc8.wf ∧ (tableConfig rowE1).wf := by decide +kernel
theorem test_config_n_low : ¬ { Config.tc8 with n := 7 }.wf := by decide
theorem test_config_n_high : ¬ { Config.tc8 with n := 65536 }.wf := by decide
theorem test_config_special : ¬ { Config.tc8 with specialC := some (pWord + 1) }.wf := by decide
theorem test_config_table_rows : ¬ { Config.tc8 with table := some [rowE1] }.wf := by decide
theorem test_config_table_row : ¬ (tableConfig [0, 1]).wf := by decide +kernel
theorem test_config_table_entry : ¬ (tableConfig [0, 1, 0, 0, 0, 0, 0, pWord + 1]).wf := by decide +kernel
theorem test_config_shift : ¬ { Config.tc8 with fbShifts := ⟨5, 7, 29, 13⟩ }.wf := by decide
theorem test_config_mem_align : ¬ { Config.tc8 with memSize := 0x10004 }.wf := by decide
theorem test_config_mem_zero : ¬ { Config.tc8 with memSize := 0 }.wf := by decide
theorem test_config_mem_high : ¬ { Config.tc8 with memSize := 2 ^ 64 + 8 }.wf := by decide

/-! ### Decoding: words written out from 30_encoding R70 and R71 -/

theorem test_decode_nop : decode 0x0000000000000000 = .ok .nop := rfl
theorem test_decode_modadd : decode 0x0000000000000001 = .ok .modadd := rfl
theorem test_decode_modmul : decode 0x0000000000000002 = .ok .modmul := rfl
theorem test_decode_fmma : decode 0x0000000000000003 = .ok .fmma := rfl
theorem test_decode_reduce : decode 0x0000000000000004 = .ok .reduce := rfl
theorem test_decode_iterate : decode 0x0000000000000010 = .ok .iterate := rfl
theorem test_decode_iterate_n : decode 0x0000000000000011 = .ok .iterateN := rfl
theorem test_decode_next_raw : decode 0x0000000000000020 = .ok .nextRaw := rfl
theorem test_decode_next_uniform : decode 0x0000000000000021 = .ok .nextUniform := rfl
theorem test_decode_fill_uniform : decode 0x0000000000000022 = .ok .fillUniform := rfl
theorem test_decode_seed_basis : decode 0x0000000000000030 = .ok .seedBasis := rfl
theorem test_decode_seed_linear : decode 0x0000000000000031 = .ok .seedLinear := rfl
theorem test_decode_recompute_csum : decode 0x0000000000000032 = .ok .recomputeCsum := rfl
theorem test_decode_seed_stream : decode 0x0000000000000033 = .ok (.seedStream false) := rfl
theorem test_decode_seed_stream_reqt : decode 0x0000000000000133 = .ok (.seedStream true) := rfl
theorem test_decode_skip : decode 0x0000000000000034 = .ok .skip := rfl
theorem test_decode_export : decode 0x0000000000000040 = .ok .exportState := rfl
theorem test_decode_import : decode 0x0000000000000041 = .ok .importState := rfl
theorem test_decode_loadv : decode 0x0000000000000042 = .ok .loadv := rfl
-- 95_test_vectors 2.7: the illegal words
theorem test_decode_reqt_elsewhere : decode 0x0000000000000122 = .error .requireTableNotAllowed := rfl
theorem test_decode_unassigned : decode 0x0000000000000005 = .error .reservedOpcode := rfl
theorem test_decode_ff : decode 0x00000000000000FF = .error .reservedOpcode := rfl
theorem test_decode_bit63 : decode 0x8000000000000001 = .error .reservedBits := rfl
theorem test_decode_bit9 : decode 0x0000000000000200 = .error .reservedBits := rfl
theorem test_table_word : decodeTableWord 64 0x133 = some (.seedStream true) ∧ decodeTableWord 16 0x34 = some .skip ∧
    decodeTableWord 64 0x200 = none ∧ decodeTableWord 128 (2 ^ 64) = none := by decide
theorem test_encode_words : encode (.seedStream true) = 0x133 ∧ encode .loadv = 0x42 := by decide

/-! ### One command each; expected values from 95_test_vectors and 45_skip R189 -/

-- a NOP after an error: STATUS 0x0004 (2.7)
theorem test_nop_clears_status : scalarOf (exec .nop { ones with err := true, errcode := 9 }) = (0, 0x0004) := by decide
-- K2, K25
theorem test_modadd : scalarOf (exec .modadd (withArgs ones (pWord - 1) 1 0 0)) = (pWord, 0x0004) := by decide
theorem test_modadd_range : scalarOf (exec .modadd (withArgs ones (pWord + 1) 0 0 0)) = (0, 0x0906) := by decide
-- K8m, K10
theorem test_modmul : scalarOf (exec .modmul (withArgs ones (pWord - 1) (pWord - 1) 0 0)) = (1, 0x0004) := by decide
theorem test_modmul_wraps : (stateOf (exec .modmul (withArgs ones (2 ^ 32) (2 ^ 32) 0 0))).result = 8 := by decide
-- K16, K26
theorem test_fmma : (stateOf (exec .fmma (withArgs ones pWord 2 3 0))).result = 6 := by decide
theorem test_fmma_range : scalarOf (exec .fmma (withArgs ones 0 0 0xFFFFFFFFFFFFFFFF 0)) = (0, 0x0906) := by decide
-- K22, K24
theorem test_reduce : (stateOf (exec .reduce (withArgs ones 0xE000000000000000 0x03FFFFFFFFFFFFFF 0 0))).result = pWord := by
  decide
theorem test_reduce_range :
    scalarOf (exec .reduce (withArgs ones 0xE000000000000001 0x03FFFFFFFFFFFFFF 0 0)) = (0, 0x0906) := by decide
-- I3 from I1's state with NSKIP 1 (one raw iteration less); code 11 from reset
theorem test_iterate : generatorOf (exec .iterate { ones with nskip := 1 }) =
    ([148, 157, 177, 211, 263, 338, 442, 582], 2170, 8) := by decide
theorem test_iterate_unseeded : scalarOf (exec .iterate State.reset) = (0, 0x0B02) := by decide
-- I2 from I1's state
theorem test_iterate_n : generatorOf (exec .iterateN (withArgs ones 1 0 0 0)) =
    ([8, 9, 11, 14, 18, 23, 29, 36], 140, 8) := by decide
-- the SPECIAL table of 2.2, c = 3: V[2] is 6 where it would be 3
theorem test_iterate_special : generatorOf (exec .iterateN (withArgs { ones with
    cfg := { Config.tc8 with specialC := some 3 }, v := [0, 1, 0, 0, 0, 0, 0, 0], csum := 1 } 1 0 0 0)) =
    ([1, 2, 6, 4, 5, 6, 7, 8], 38, 8) := by decide
-- X2's last draw refills; X5 reads V[0] without a refill
theorem test_next_raw_refills : ((stateOf (exec .nextRaw ones)).result, generatorOf (exec .nextRaw ones)) =
    (9, [8, 9, 11, 14, 18, 23, 29, 36], 140, 2) := by decide
theorem test_next_raw_cursor0 : (stateOf (exec .nextRaw { ones with v := [5, 1, 1, 1, 1, 1, 1, 1], cursor := 0 })).result = 5 ∧
    (stateOf (exec .nextRaw { ones with cursor := 0 })).cursor = 1 := by decide
-- X4's encoding of 1; the tie of R144 at 2^53 + 1
theorem test_next_uniform : (stateOf (exec .nextUniform { ones with cursor := 7 })).result = 0x3C20000000000000 := by
  decide +kernel
theorem test_uniform_rounds : uniformBits (2 ^ 53 + 1) = 0x3F70000000000000 ∧ uniformBits (2 ^ 54 + 3) = 0x3F80000000000001 ∧
    uniformBits (2 ^ 61 - 129) = 0x3FEFFFFFFFFFFFFF ∧ uniformBits (2 ^ 61 - 128) = 0x3FF0000000000000 := by decide +kernel
-- X8 from e_0 with NSKIP 0: slot 7 is the 8 of a partial block, with the bytes of X9's image; CURSOR 1
theorem test_fill_uniform :
    let t := stateOf (exec .fillUniform (withArgs { ones with v := [1, 0, 0, 0, 0, 0, 0, 0], csum := 0 } 8 0x2000 0 0))
    t.mem.readWord 0x2030 = 0x3C20000000000000 ∧ t.mem.readWord 0x2038 = 0x3C50000000000000 ∧
      t.mem.readByte 0x203F = 0x3C ∧ t.mem.readWord 0x2040 = 0 ∧ t.cursor = 1 := by decide +kernel
-- FILL_UNIFORM 0, 3 succeeds (2.8)
theorem test_fill_uniform_zero : scalarOf (exec .fillUniform (withArgs ones 0 3 0 0)) = (0, 0x0004) := by decide
-- E2, code 1
theorem test_seed_basis : generatorOf (exec .seedBasis (withArgs State.reset 3 0 0 0)) = ([0, 0, 0, 1, 0, 0, 0, 0], 1, 8) := by
  decide
theorem test_seed_basis_index : scalarOf (exec .seedBasis (withArgs ones 8 0 0 0)) = (0, 0x0106) := by decide
-- E4, S6
theorem test_seed_linear : generatorOf (exec .seedLinear (withArgs State.reset 1 0 0 0)) =
    ([1, 906770732717044781, 629165745432651234, 1235682547346241386, 68420008233404568, 2262190991329242458,
      2266470399991071809, 1976726662926872232], 122055051121752665, 8) := by decide +kernel
theorem test_seed_linear_zero : scalarOf (exec .seedLinear State.reset) = (0, 0x0202) := by decide
-- the checksum of the all-ones state from a wrong one (I1)
theorem test_recompute_csum : generatorOf (exec .recomputeCsum { ones with csum := 8 }) = ([1, 1, 1, 1, 1, 1, 1, 1], 7, 8) := by
  decide
-- K4s; T_E1 with streamID 3 (K2s)
theorem test_seed_stream_fallback : generatorOf (exec (.seedStream false) (withArgs State.reset 1 2 3 4)) =
    ([366915, 406127, 484556, 602211, 759133, 955619, 1198110, 1525815], 5931571, 8) := by decide +kernel
theorem test_seed_stream_table :
    generatorOf (exec (.seedStream true) (withArgs (State.resetWith (tableConfig rowE1)) 0 0 0 3)) =
      ([8, 9, 11, 14, 18, 23, 29, 36], 140, 8) := by decide +kernel
-- T_P: the representative of the zero class; K6s
theorem test_skip : generatorOf (exec .skip (withArgs { ones with
    cfg := tableConfig [pWord, 0, 0, 0, 0, 0, 0, 0], v := [0, 0, 1, 0, 0, 0, 0, 0], csum := 1 } 0 0 0 1)) =
    ([0, 0, mersBase, 0, 0, 0, 0, 0], mersBase, 8) := by decide +kernel
theorem test_skip_no_table : scalarOf (exec .skip (withArgs ones 0 0 0 1)) = (0, 0x0606) := by decide
-- the EXPORT example of 2.6
theorem test_export : (List.range 11).map (fun k =>
    ((stateOf (exec .exportState (withArgs ones 0x1000 0 0 0))).mem.readWord (0x1000 + 8 * k)).toNat) =
    [8, 8, 7, 1, 1, 1, 1, 1, 1, 1, 1] := by decide +kernel
-- T7, T8
theorem test_import : generatorOf (exec .importState (withArgs { State.reset with
    mem := recordAt3000 [8, 0, pWord, 0, 0, 0, 0, 0, 0, pWord, 0] } 0x3000 0 0 0)) =
    ([0, 0, 0, 0, 0, 0, mersBase, 0], mersBase, 0) := by decide +kernel
theorem test_import_representative : scalarOf (exec .importState (withArgs { State.reset with
    mem := recordAt3000 [8, 0, 0, 0, 0, 0, 0, 0, 0, pWord, 0] } 0x3000 0 0 0)) = (0, 0x0502) := by decide +kernel
-- the LOADV examples of 2.6
theorem test_loadv : generatorOf (exec .loadv (withArgs { State.reset with
    mem := recordAt3000 [0, pWord, 0, pWord, 0, pWord, 0, pWord] } 0x3000 0 0 0)) =
    ([0, mersBase, 0, mersBase, 0, mersBase, 0, mersBase], mersBase, 8) := by decide +kernel
theorem test_loadv_range : scalarOf (exec .loadv (withArgs { State.reset with
    mem := recordAt3000 [0, pWord + 1, 0, 0, 0, 0, 0, 0] } 0x3000 0 0 0)) = (0, 0x0302) := by decide +kernel
-- 30_encoding R76, R77: a command's ARG writes, CMD write, WAIT and RD RESULT
theorem test_program_events : programEvents [.commandTo .seedBasis [5] 0, .setskip 0] =
    [.regWrite 64 0x20 5, .regWrite 64 0x00 0x30, .engineTurn, .regRead 64 0x08, .regRead 64 0x40,
      .regWrite 64 0x18 0] := by decide
-- 95_test_vectors P7: ITERATE_N without WAIT, then WR NSKIP while it runs, and after it has completed
theorem test_dropped_write :
    ([[], [HostStmt.completion]].map fun early =>
      let evs := programEvents ([.wr .arg0 1, .wr .cmd 0x11] ++ early ++ [.wr .nskip 5, .wait 0])
      match Host.Core.run Sys2Proof.core evs.length { ones with host := evs } with
      | .next t => (t.nskip.toNat, t.observed)
      | _ => (0, [])) = [(0, [0xC]), (5, [0x4])] := by decide +kernel
-- 10_state R40 with a table
theorem test_config_with_table : (State.resetWith (tableConfig rowE1)).readReg .config = 0x013D0008 := by decide +kernel

/-! ### Witnesses: for every statement with hypotheses, inputs that meet them, at the boundaries of its clauses -/

/-- s with the host events evs still to happen. -/
def hosted (evs : List HostEvent) (s : State) : State := { s with host := evs }

/-- The vector of vector I6 with its checksum under LAZY. -/
def zeroClass : Gen := { v := [0, mersBase, 0, mersBase, 0, mersBase, 0, mersBase], cs := mersBase }

/-- A seeded engine with table T_E1 whose memory holds the record of T1 at address 0. -/
def tabled : State :=
  { ones with cfg := tableConfig rowE1, mem := Memory.writeAll [] (wordsAt 0 [8, 8, 7, 1, 1, 1, 1, 1, 1, 1, 1]) }

/-- `ones` with EXPORT running at 0x1000. -/
def exporting : State := accept 0x40 (withArgs ones 0x1000 0 0 0)

/-- `ones` with FILL_UNIFORM 3, 0x1000 running. -/
def filling : State := accept 0x22 (withArgs ones 3 0x1000 0 0)

/-- IMPORT of the record of T1 running at 0x3000. -/
def importing : State :=
  accept 0x41 (withArgs { ones with mem := recordAt3000 [8, 8, 7, 1, 1, 1, 1, 1, 1, 1, 1] } 0x3000 0 0 0)

/-- Residues by one pass over the list. -/
theorem residues_of_all {v : List Word} (h : (v.all fun w => decide (w.toNat ≤ mersBase)) = true) :
    ∀ w ∈ v, w.toNat ≤ mersBase := by simpa using h

theorem tc8_runnable : runnable Config.tc8 := ⟨by decide, rfl⟩

theorem ones_inv : EngineInv ones :=
  ⟨by decide, rfl, residues_of_all (by decide), by decide, by decide, by decide, by decide, by decide, by decide, by decide,
    fun _ => ⟨rfl, rfl⟩⟩

theorem tabled_inv : EngineInv tabled :=
  ⟨by decide +kernel, rfl, residues_of_all (by decide), by decide, by decide, by decide +kernel, by decide +kernel, by decide, by decide,
    by decide, fun _ => ⟨rfl, rfl⟩⟩

theorem witness_SpecExampleWordsDecode :
    ∀ w ∈ ([0x122, 0x5, 0x8000000000000001] : List Word), (accept w ones).running = some w := fun _ _ => rfl

theorem witness_LegalWordsAreDecoded :
    decode 0x133 = .ok (.seedStream true) ∧ (0x133 : Word).getLsbD 8 = true ∧ ones.busy = false ∧
      (¬ ∃ i, decode 0x5 = .ok i) ∧ (accept 0x5 ones).running = some 0x5 :=
  ⟨rfl, by decide, rfl, by (rintro ⟨_, h⟩; cases test_decode_unassigned.symm.trans h), rfl⟩

theorem witness_DecodeEncodeAgree : decode 0x133 = .ok (.seedStream true) := rfl

theorem witness_StepRunsDecodedCommand :
    runnable ones.cfg ∧ decode 0x10 = .ok .iterate ∧
      ((accept 0x10 ones).host = [] ∧ (accept 0x10 ones).running = some 0x10) ∧
      (hosted [.engineTurn] (accept 0x10 ones)).host = .engineTurn :: [] ∧ (ones.host = [] ∧ ones.running = none) ∧
      ((accept 0x5 ones).host = [] ∧ (hosted [.engineTurn] (accept 0x5 ones)).host = .engineTurn :: [] ∧
        (accept 0x5 ones).running = some 0x5 ∧ ¬ ∃ i, decode 0x5 = .ok i) :=
  ⟨tc8_runnable, rfl, ⟨rfl, rfl⟩, rfl, ⟨rfl, rfl⟩, rfl, rfl, rfl,
    by (rintro ⟨_, h⟩; cases test_decode_unassigned.symm.trans h)⟩

theorem witness_CommandAcceptance :
    runnable ones.cfg ∧ (hosted [.regWrite 64 0x00 0x5] ones).host = .regWrite 64 0x00 0x5 :: [] ∧
      (hosted [.regWrite 64 0x00 0x5] ones).busy = false := ⟨tc8_runnable, rfl, rfl⟩

theorem witness_BusyWritesAreDropped :
    ∀ offset ∈ ([0x00, 0x18, 0x20, 0x28, 0x30, 0x38] : List (BitVec 8)),
      let s := hosted [.regWrite 64 offset 5] (accept 0x10 ones)
      runnable s.cfg ∧ s.host = .regWrite 64 offset 5 :: [] ∧ s.busy = true :=
  fun _ _ => ⟨tc8_runnable, rfl, rfl⟩

theorem witness_RegisterWritesTakeEffect :
    runnable ones.cfg ∧ ones.busy = false ∧
      (∀ offset : BitVec 8, (hosted [.regWrite 64 offset (2 ^ 32 + 7)] ones).host = [.regWrite 64 offset (2 ^ 32 + 7)]) ∧
      (hosted [.regWrite 64 0x08 0x8] { ones with werr := true }).host = [.regWrite 64 0x08 0x8] ∧
      (0x8 : Word).getLsbD 3 = true ∧ (0xFFFFFFFFFFFFFFF7 : Word).getLsbD 3 = false :=
  ⟨tc8_runnable, rfl, fun _ => rfl, rfl, by decide, by decide⟩

theorem witness_RegisterAccessContract :
    runnable ones.cfg ∧ 32 ≠ 64 ∧ (0x04 : BitVec 8).toNat % 8 ≠ 0 ∧
      (∀ offset ∈ ([0x10, 0x40, 0x48, 0x50, 0xF8] : List (BitVec 8)), offset.toNat % 8 = 0 ∧
        (offset ∈ ([0x10, 0x40, 0x48] : List (BitVec 8)) ∨ 0x50 ≤ offset.toNat)) ∧
      (∀ offset : BitVec 8, (hosted [.regWrite 64 offset 1] ones).host = [.regWrite 64 offset 1] ∧
        (hosted [.regRead 64 offset] ones).host = [.regRead 64 offset]) ∧
      (hosted [.regWrite 32 0x20 1] ones).host = [.regWrite 32 0x20 1] ∧
      (hosted [.regRead 32 0x20] ones).host = [.regRead 32 0x20] :=
  ⟨tc8_runnable, by decide, by decide, by decide, fun _ => ⟨rfl, rfl⟩, rfl, rfl⟩

theorem witness_RegisterReadValues :
    ∀ offset ∈ ([0x00, 0x08, 0x10, 0x18, 0x20, 0x28, 0x30, 0x38, 0x40, 0x48, 0x50, 0xF8] : List (BitVec 8)),
      runnable ones.cfg ∧ (hosted [.regRead 64 offset] ones).host = [.regRead 64 offset] ∧ offset.toNat % 8 = 0 := by
  intro offset h
  refine ⟨tc8_runnable, rfl, ?_⟩
  revert offset
  decide

theorem witness_ConfigRegister :
    ones.cfg.wf ∧ { Config.tc8 with n := 65535, specialC := some pWord, pReduce := .canonical, slCsum := .excl0 }.wf ∧
      ∃ t, step ones = .next t := ⟨by decide, by decide, _, Laws.step_of_runnable tc8_runnable⟩

theorem witness_CommandFrame :
    (∃ t, exec .iterate ones = .next t) ∧ writesMemory .iterate = false ∧ ∃ t, step ones = .next t :=
  ⟨⟨_, rfl⟩, rfl, _, Laws.step_of_runnable tc8_runnable⟩

theorem witness_ResultWrittenOnlyByScalarCommands :
    (∃ t, step (accept 0x20 ones) = .next t ∧ t.result ≠ (accept 0x20 ones).result) ∧
      (∃ t, step (hosted [.reset] { ones with result := 5 }) = .next t ∧ t.result ≠ 5) ∧ (accept 0x20 ones).busy = true :=
  ⟨⟨_, Laws.step_of_runnable tc8_runnable, by decide⟩, ⟨_, Laws.step_of_runnable tc8_runnable, by decide⟩, rfl⟩

theorem witness_SafeScheduleEndsIdle :
    safeRun (hosted [.regWrite 64 0x00 0x10, .regRead 64 0x08, .memWrite 0xFFFF 1, .memRead 0, .reset, .engineTurn] ones) :=
  ⟨tc8_runnable, by simp [hosted, eventOk, accessOk, ones, State.reset, State.resetWith, Config.tc8]⟩

theorem witness_StepStopsExactlyWhere :
    runnable ones.cfg ∧ (∀ ev, (hosted [.memRead 0xFFF9] ones).host.head? = some ev → eventOk ev) ∧
      (¬ { Config.tc8 with n := 7 }.wf) ∧
      ({ Config.tc8 with window := .readSideEffects }.wf ∧
        { Config.tc8 with window := .readSideEffects }.window = .readSideEffects) ∧
      (hosted [.regWrite 32 0x20 1] ones).host.head? = some (.regWrite 32 0x20 1) ∧
      (hosted [.regRead 64 0x0C] ones).host.head? = some (.regRead 64 0x0C) ∧ (0x0C : BitVec 8).toNat % 8 ≠ 0 ∧
      step (hosted [.regRead 64 0x0C] ones) = .refused .hostRegisterAccess :=
  ⟨tc8_runnable, by rintro _ ⟨⟩; trivial, by decide, ⟨by decide, rfl⟩, rfl, rfl, by decide,
    Laws.step_of_runnable tc8_runnable⟩

theorem witness_FoldLaw : 0 ≤ 2 * mersBase ∧ 2 * mersBase ≤ 2 * mersBase := by decide

theorem witness_ReductionIsRed :
    0 ≤ mersBase * (mersBase + 1) ∧ mersBase * (mersBase + 1) ≤ mersBase * (mersBase + 1) := by decide

theorem witness_ChecksumsAreRedOfSum : ∀ x ∈ zeroClass.v, x ≤ mersBase := by decide

theorem witness_ModaddResult : residueOk pWord ∧ mersBase < (pWord + 1).toNat := by decide
theorem witness_ModmulResult : residueOk pWord ∧ mersBase < (pWord + 1).toNat := by decide
theorem witness_FmmaResult : residueOk pWord ∧ residueOk 0 ∧ mersBase < (pWord + 1).toNat := by decide

theorem witness_ReduceResult :
    (withArgs ones 0xE000000000000000 0x03FFFFFFFFFFFFFF 0 0).reduceInput = 2 ^ 122 - 2 ^ 61 ∧
      (withArgs ones 0xE000000000000001 0x03FFFFFFFFFFFFFF 0 0).reduceInput = 2 ^ 122 - 2 ^ 61 + 1 := by decide

theorem witness_IterateRawClosedForm :
    Config.tc8.wf ∧ zeroClass.v.length = Config.tc8.n ∧ (∀ x ∈ zeroClass.v, x ≤ mersBase) ∧ zeroClass.cs ≤ mersBase := by
  decide
theorem witness_RawIterationRestoresExcl0 :
    Config.tc8.wf ∧ zeroClass.v.length = Config.tc8.n ∧ (∀ x ∈ zeroClass.v, x ≤ mersBase) ∧ zeroClass.cs ≤ mersBase := by
  decide
theorem witness_RunningTotalFits :
    Config.tc8.wf ∧ zeroClass.v.length = Config.tc8.n ∧ (∀ x ∈ zeroClass.v, x ≤ mersBase) ∧ zeroClass.cs ≤ mersBase := by
  decide
theorem witness_RawIterationIsRecurrenceMatrix :
    Config.tc8.wf ∧ zeroClass.v.length = Config.tc8.n ∧ (∀ x ∈ zeroClass.v, x ≤ mersBase) ∧ zeroClass.cs ≤ mersBase ∧
      zeroClass.cs ≡ zeroClass.v.tail.sum [MOD mersBase] := by decide
theorem witness_ZeroFixedPointAndPositivity :
    (Config.tc8.wf ∧ Config.tc8.pReduce = .lazy ∧ (Gen.mk (List.replicate 8 0) 0).v.length = Config.tc8.n ∧
      ∀ x ∈ (Gen.mk (List.replicate 8 0) 0).v, x = 0) ∧
    0 < elementOf zeroClass.v 0 + zeroClass.cs ∧
    (zeroClass.cs = csumExcl0 .lazy zeroClass.v ∧ ∃ x ∈ zeroClass.v, x ≠ 0) ∧
    (mersBase = csumFull .lazy (List.replicate 8 mersBase) ∧ ∃ x ∈ List.replicate 8 mersBase, x ≠ 0) ∧
    ({ Config.tc8 with pReduce := .canonical }.wf ∧ { Config.tc8 with pReduce := .canonical }.pReduce = .canonical) := by
  decide

theorem witness_IterateResult : ones.seeded = true ∧ State.reset.seeded = false := by decide
theorem witness_IterateNResult :
    ones.seeded = true ∧ (0xFFFFFFFF : Word).toNat < 2 ^ 32 ∧ (withArgs ones 0 0 0 0).arg0 = 0 ∧
      (withArgs ones 1 0 0 0).arg0.toNat = ones.nskip.toNat + 1 ∧ State.reset.seeded = false ∧
      2 ^ 32 ≤ (0x100000000 : Word).toNat := by decide
theorem witness_NextRawResult :
    ones.seeded = true ∧ ({ ones with cursor := 7 }).cursor.toNat < ones.cfg.n ∧ ones.cfg.n ≤ ones.cursor.toNat ∧
      State.reset.seeded = false := by decide
theorem witness_NextUniformResult : EngineInv ones ∧ ones.seeded = true ∧ State.reset.seeded = false := ⟨ones_inv, rfl, rfl⟩
theorem witness_UniformConversionRounds :
    2 ^ 53 - 1 ≤ mersBase ∧ 2 ^ 53 - 1 < 2 ^ 53 ∧ 2 ^ 53 ≤ 2 ^ 53 ∧ 2 ^ 53 ≤ mersBase ∧ mersBase ≤ mersBase := by decide
theorem witness_UniformRange : 2 ^ 61 - 129 ≤ mersBase ∧ 2 ^ 61 - 128 ≤ mersBase ∧ mersBase ≤ mersBase := by decide

-- n = 0 at an odd address, a range that ends at MEM_SIZE, and the three errors
theorem witness_FillUniformResult :
    (ones.cfg.wf ∧ ones.v.length = ones.cfg.n ∧ ones.mem.wf ∧ ones.seeded = true) ∧
    (withArgs ones 0 3 0 0).arg0.toNat = 0 ∧
    (0x0FFF : Word).toNat < 2 ^ 32 ∧ (0x8008 : Word).toNat % 8 = 0 ∧
    (0x8008 : Word).toNat + 8 * (0x0FFF : Word).toNat = ones.cfg.memSize ∧
    State.reset.seeded = false ∧ 2 ^ 32 ≤ (0x100000000 : Word).toNat ∧
    (0x8004 : Word).toNat % 8 ≠ 0 ∧ ones.cfg.memSize < (0x8008 : Word).toNat + 8 * (0x1000 : Word).toNat := by decide

theorem witness_FillAgreesWithNext :
    let s := withArgs ones 8 0x2000 0 0
    EngineInv s ∧ s.seeded = true ∧ s.cursor.toNat = s.cfg.n ∧ s.kept = [] ∧ s.arg0.toNat < 2 ^ 32 ∧
      s.arg1.toNat % 8 = 0 ∧ s.arg1.toNat + 8 * s.arg0.toNat ≤ s.cfg.memSize :=
  ⟨⟨by decide, rfl, residues_of_all (by decide), by decide, by decide, by decide, by decide, by decide, by decide, by decide,
    fun _ => ⟨rfl, rfl⟩⟩, by decide⟩

theorem witness_SeedBasisResult : (7 : Word).toNat < ones.cfg.n ∧ ones.cfg.n ≤ (8 : Word).toNat := by decide
theorem witness_SeedLinearResult :
    ones.cfg.wf ∧ (withArgs ones 1 0 0 0).arg0 ≠ 0 ∧ (withArgs ones 0 0 0 0).arg0 = 0 := by decide
theorem witness_RecomputeCsumResult :
    ones.seeded = true ∧ (∀ w ∈ ones.v, w.toNat ≤ mersBase) ∧ State.reset.seeded = false :=
  ⟨rfl, ones_inv.vResidues, rfl⟩

theorem witness_SeedStreamResult :
    (ones.cfg.wf ∧ ones.cfg.table = none ∧
      (withArgs ones 0xFFFFFFFF 0xFFFFFFFF 0xFFFFFFFF 0xFFFFFFFF).idsOk) ∧
    (tabled.cfg.wf ∧ tabled.cfg.table.isSome = true ∧ tabled.idsOk) ∧
    ¬ (withArgs ones 0 0 0 0x100000000).idsOk := by decide +kernel

theorem witness_SkipResult :
    (tabled.seeded = true ∧ (withArgs tabled 0xFFFFFFFF 0xFFFFFFFF 0xFFFFFFFF 0xFFFFFFFF).idsOk ∧
      tabled.cfg.table.isSome = true) ∧
    (tabled.arg0 = 0 ∧ tabled.arg1 = 0 ∧ tabled.arg2 = 0 ∧ tabled.arg3 = 0) ∧ State.reset.seeded = false ∧
    ¬ (withArgs ones 0x100000000 0 0 0).idsOk ∧ (ones.idsOk ∧ ones.cfg.table = none) := by decide +kernel

theorem witness_IdBitSelectsTableRow :
    (0 < 4 ∧ 3 < 4 ∧ 0 < 32 ∧ 31 < 32) ∧ selectedRows [5, 0, 1, 2 ^ 31] = [0, 2, 64, 127] := by decide

theorem witness_SkipRowIsMatrixPolynomial :
    Config.tc8.wf ∧ zeroClass.v.length = Config.tc8.n ∧ (∀ x ∈ zeroClass.v, x ≤ mersBase) ∧
      (rowE1.map BitVec.toNat).length = Config.tc8.n ∧ (∀ x ∈ rowE1.map BitVec.toNat, x ≤ mersBase) ∧
      7 < Config.tc8.n ∧
    ((tableConfig rowE1).table.isSome = true ∧ [127, 64, 2, 0].Perm (selectedRows [5, 0, 1, 2 ^ 31])) := by decide +kernel

-- T10's and T11's addresses: the record ends at MEM_SIZE, and 8 bytes beyond
theorem witness_ExportResult :
    (ones.v.length = ones.cfg.n ∧ ones.mem.wf ∧ ones.seeded = true) ∧
    (0xFFA8 : Word).toNat % 8 = 0 ∧ (0xFFA8 : Word).toNat + 8 * (ones.cfg.n + 3) = ones.cfg.memSize ∧
    State.reset.seeded = false ∧ (0x1004 : Word).toNat % 8 ≠ 0 ∧
    ones.cfg.memSize < (0xFFB0 : Word).toNat + 8 * (ones.cfg.n + 3) := by decide

/-- The five checks of the IMPORT statement, on the record ws at 0x3000, in the order the statement names them. -/
def importChecks (ws : List Word) : List Bool :=
  let s := withArgs { ones with mem := recordAt3000 ws } 0x3000 0 0 0
  let w : Nat → Word := fun k => s.portRead (s.arg0.toNat + 8 * k)
  [decide (s.arg0.toNat % 8 = 0 ∧ s.arg0.toNat + 8 * (s.cfg.n + 3) ≤ s.cfg.memSize),
   decide ((w 0).toNat = s.cfg.n), decide (∀ i < s.cfg.n, (w (3 + i)).toNat ≤ mersBase),
   decide ((w 1).toNat ≤ s.cfg.n),
   decide ((w 2).toNat = red s.cfg.pReduce (∑ i ∈ Finset.range (s.cfg.n - 1), (w (4 + i)).toNat))]

-- T1, T2, T3, T4, T5, and T9's and T11's addresses
theorem witness_ImportResult :
    importChecks [8, 8, 7, 1, 1, 1, 1, 1, 1, 1, 1] = [true, true, true, true, true] ∧
    (importChecks [9, 8, 7, 1, 1, 1, 1, 1, 1, 1, 1]).take 2 = [true, false] ∧
    (importChecks [8, 8, 7, 1, 1, 1, 1, 1, 1, 1, pWord + 1]).take 3 = [true, true, false] ∧
    (importChecks [8, 9, 7, 1, 1, 1, 1, 1, 1, 1, 1]).take 4 = [true, true, true, false] ∧
    importChecks [8, 8, 6, 1, 1, 1, 1, 1, 1, 1, 1] = [true, true, true, true, false] ∧
    ones.latched = [] ∧ (0x3004 : Word).toNat % 8 ≠ 0 ∧
    ones.cfg.memSize < (0xFFB0 : Word).toNat + 8 * (ones.cfg.n + 3) := by decide +kernel

/-- The two checks of the LOADV statement, on the words ws at 0x3000. -/
def loadChecks (ws : List Word) : List Bool :=
  let s := withArgs { ones with mem := recordAt3000 ws } 0x3000 0 0 0
  [decide (s.arg0.toNat % 8 = 0 ∧ s.arg0.toNat + 8 * s.cfg.n ≤ s.cfg.memSize),
   decide (∀ i < s.cfg.n, (s.portRead (s.arg0.toNat + 8 * i)).toNat ≤ mersBase)]

theorem witness_LoadvResult :
    loadChecks [0, pWord, 0, pWord, 0, pWord, 0, pWord] = [true, true] ∧
    loadChecks [0, 0, 0, 0, 0, 0, 0, pWord + 1] = [true, false] ∧ ones.latched = [] ∧
    (0xFFC0 : Word).toNat + 8 * ones.cfg.n = ones.cfg.memSize ∧
    ones.cfg.memSize < (0xFFC8 : Word).toNat + 8 * ones.cfg.n := by decide +kernel

theorem witness_ExportImportRoundTrip :
    (EngineInv ones ∧ ones.seeded = true ∧ ones.kept = [] ∧ ones.arg0.toNat % 8 = 0 ∧
      ones.arg0.toNat + 8 * (ones.cfg.n + 3) ≤ ones.cfg.memSize) ∧
    csumIsExcl0 ones ∧ (EngineInv { ones with csum := 8 } ∧ ¬ csumIsExcl0 { ones with csum := 8 }) :=
  ⟨⟨ones_inv, by decide⟩, by unfold csumIsExcl0; decide,
    ⟨by decide, rfl, residues_of_all (by decide), by decide, by decide, by decide, by decide, by decide, by decide, by decide,
      fun _ => ⟨rfl, rfl⟩⟩, by unfold csumIsExcl0; decide⟩

theorem witness_FailureChangesOnlyStatus : ∃ t, exec .iterate State.reset = .next t ∧ t.err = true := ⟨_, rfl, rfl⟩
theorem witness_EveryCommandCompletesWithItsCodes : needsSeed .iterate = true ∧ State.reset.seeded = false := by decide
theorem witness_InvariantsHoldAtReset : Config.tc8.wf ∧ (tableConfig rowE1).wf := test_config_wf
theorem witness_StepKeepsInvariants : EngineInv ones ∧ ∃ t, step (accept 0x10 ones) = .next t :=
  ⟨ones_inv, _, Laws.step_of_runnable tc8_runnable⟩

theorem witness_StepKeepsChecksumConvention : EngineInv ones ∧ csumConvention ones ∧ ∃ t, step ones = .next t :=
  ⟨ones_inv, fun _ => .inl (by unfold csumIsExcl0; decide), _, Laws.step_of_runnable tc8_runnable⟩

theorem witness_ChecksumPerCallSite :
    EngineInv tabled ∧
    (∀ i ∈ ([.iterate, .seedBasis, .seedStream false, .seedStream true, .skip, .importState, .loadv,
        .recomputeCsum] : List Instr), (stateOf (exec i tabled)).err = false) ∧
    ((∃ t, exec .seedLinear (withArgs ones 1 0 0 0) = .next t ∧ t.err = false) ∧ ones.cfg.slCsum = .full) ∧
    { Config.tc8 with slCsum := .excl0 }.slCsum = .excl0 ∧
    (∀ i ∈ ([.nextRaw, .nextUniform, .iterateN, .fillUniform, .nop, .exportState] : List Instr),
      (stateOf (exec i ones)).err = false) ∧
    ({ ones with cursor := 7 }.cursor.toNat < ones.cfg.n ∧ ¬ ones.cursor.toNat < ones.cfg.n) ∧
    (ones.arg0 = 0 ∧ (withArgs ones 1 0 0 0).arg0 ≠ 0) :=
  ⟨tabled_inv, by decide +kernel, ⟨⟨_, rfl, rfl⟩, rfl⟩, rfl, by decide +kernel, by decide, by decide⟩

theorem witness_SeededOnlyByConstruction :
    (∃ t, step (accept 0x30 State.reset) = .next t ∧ State.reset.seeded = false ∧ t.seeded = true) ∧
    ∃ t, step (hosted [.reset] ones) = .next t ∧ ones.seeded = true ∧ t.seeded = false :=
  ⟨⟨_, Laws.step_of_runnable tc8_runnable, rfl, by decide⟩, _, Laws.step_of_runnable tc8_runnable, rfl, rfl⟩

theorem witness_UnseededStateIsInvisible :
    State.reset.seeded = false ∧ (∃ t, step (accept 0x33 State.reset) = .next t) ∧
    step (hosted [.regRead 32 0] State.reset) = .refused .hostRegisterAccess :=
  ⟨rfl, ⟨_, Laws.step_of_runnable tc8_runnable⟩, Laws.step_of_runnable tc8_runnable⟩

theorem witness_ResetAtAnyTime :
    (runnable ones.cfg ∧ (hosted [.reset] exporting).mem.wf ∧ (hosted [.reset] exporting).host = .reset :: []) ∧
    (0x1000, 8) ∈ (hosted [.reset] exporting).writesInFlight ∧ (hosted [.reset] ones).busy = false :=
  ⟨⟨tc8_runnable, by decide, rfl⟩, by decide +kernel, rfl⟩

theorem witness_RacingHostRead :
    let s := hosted [.memRead 0x1008] exporting
    (runnable s.cfg ∧ s.mem.wf ∧ s.host = .memRead 0x1008 :: []) ∧ (0x1008 : Word).toNat % 8 = 0 ∧
      (0xFFF8 : Word).toNat + 8 = s.cfg.memSize ∧ (0x1008, 8) ∈ s.writesInFlight :=
  ⟨⟨tc8_runnable, by decide, rfl⟩, by decide, by decide, by decide +kernel⟩

-- an access that ends at MEM_SIZE, one that straddles it, one beyond it
theorem witness_HostMemoryAccess :
    (runnable ones.cfg ∧ ones.mem.wf ∧ ones.busy = false) ∧
    (∀ a ∈ ([0xFFF8, 0xFFF9, 0x10000] : List Word),
      (hosted [.memWrite a 9] ones).host = .memWrite a 9 :: [] ∧ (hosted [.memRead a] ones).host = .memRead a :: []) ∧
    (0xFFF8 : Word).toNat + 8 = ones.cfg.memSize ∧ ones.cfg.memSize < (0xFFF9 : Word).toNat + 8 ∧
    ones.cfg.memSize ≤ (0x10000 : Word).toNat :=
  ⟨⟨tc8_runnable, by decide, rfl⟩, fun _ _ => ⟨rfl, rfl⟩, by decide, by decide, by decide⟩

-- the record's first and last words
theorem witness_RacingHostWriteToReadWord :
    let s := hosted [.memWrite 0x3050 9] importing
    (runnable s.cfg ∧ s.mem.wf ∧ s.host = .memWrite 0x3050 9 :: []) ∧ (0x3050 : Word).toNat % 8 = 0 ∧
      0x3000 ∈ s.readsInFlight ∧ (0x3050 : Word).toNat ∈ s.readsInFlight ∧
      (s.running = some (encode .importState) ∧ s.arg0.toNat % 8 = 0 ∧
        s.arg0.toNat + 8 * (s.cfg.n + 3) ≤ s.cfg.memSize) ∧
      ((accept 0x42 (withArgs ones 0xFFC0 0 0 0)).running = some (encode .loadv) ∧ (0xFFC0 : Word).toNat % 8 = 0 ∧
        (0xFFC0 : Word).toNat + 8 * ones.cfg.n = ones.cfg.memSize) :=
  ⟨⟨tc8_runnable, by decide +kernel, rfl⟩, by decide, by decide +kernel, by decide +kernel, ⟨rfl, by decide, by decide⟩,
    rfl, by decide, by decide⟩

theorem busy_inv :
    EngineInv (hosted [.memWrite 0x1010 9] exporting) ∧ EngineInv (hosted [.memWrite 0x1010 9] filling) :=
  ⟨⟨by decide, rfl, residues_of_all (by decide), by decide, by decide, by decide, by decide, by decide, by decide,
     by decide, fun h => by cases h⟩,
   ⟨by decide, rfl, residues_of_all (by decide), by decide, by decide, by decide, by decide, by decide, by decide,
     by decide, fun h => by cases h⟩⟩

theorem witness_RacingHostWriteToWrittenWord :
    (runnable ones.cfg ∧ EngineInv (hosted [.memWrite 0x1010 9] exporting) ∧
      EngineInv (hosted [.memWrite 0x1010 9] filling) ∧
      (hosted [.memWrite 0x1010 9] exporting).host = .memWrite 0x1010 9 :: []) ∧
    ((0x1010 : Word).toNat, (7 : Word)) ∈ (hosted [.memWrite 0x1010 9] exporting).writesInFlight ∧
    ((0x1010 : Word).toNat, (0x3C56000000000000 : Word)) ∈ (hosted [.memWrite 0x1010 9] filling).writesInFlight ∧
    (exporting.running = some (encode .exportState) ∧ exporting.seeded = true ∧ exporting.kept = [] ∧
      exporting.arg0.toNat % 8 = 0 ∧ exporting.arg0.toNat + 8 * (exporting.cfg.n + 3) ≤ exporting.cfg.memSize) ∧
    (filling.running = some (encode .fillUniform) ∧ filling.seeded = true ∧ filling.kept = [] ∧
      filling.arg0.toNat < 2 ^ 32 ∧ filling.arg1.toNat % 8 = 0 ∧
      filling.arg1.toNat + 8 * filling.arg0.toNat ≤ filling.cfg.memSize) :=
  ⟨⟨tc8_runnable, busy_inv.1, busy_inv.2, rfl⟩, by decide +kernel, by decide +kernel, by decide, by decide⟩

end Sys2Proof.Tests
end

/-! # Proofs of the statements about the state (10_state)

The kernel's arithmetic and the raw iteration, the generator part of the state, what each command and each step do to
it, and from these the statements. -/

/-! ### The kernel: fold, red, and the operations as red of an exact number (41_kernel) -/

namespace Sys2Proof.Proofs

open Sys2Proof Sys2Proof.Machine Sys2Proof.Laws

theorem mersBase_eq : mersBase = 2305843009213693951 := rfl

/-- The mask and the shift of `fold` are the remainder and the quotient by 2^61 (41_kernel R100). -/
theorem fold_eq (k : Nat) : fold k = k % 2 ^ 61 + k / 2 ^ 61 := by
  rw [fold, mersBits, Nat.shiftRight_eq_div_pow, show mersBase = 2 ^ 61 - 1 from rfl, Nat.and_two_pow_sub_one_eq_mod]

/-- The first fold of a 128-bit value, without masks and shifts (41_kernel R102). -/
theorem foldWide_eq (s : Nat) :
    foldWide s = s % 2 ^ 64 % 2 ^ 61 + 8 * (s / 2 ^ 64) + s % 2 ^ 64 / 2 ^ 61 := by
  rw [foldWide, mersBits, Nat.shiftRight_eq_div_pow, show mersBase = 2 ^ 61 - 1 from rfl, Nat.and_two_pow_sub_one_eq_mod]

/-- The reduction is a residue: it is at most p (41_kernel R101). -/
theorem red_le (m : ReduceMode) (x : Nat) : red m x ≤ mersBase := by
  have hp : 0 < mersBase := by decide
  cases m with
  | lazy =>
    simp only [red]
    split
    · exact Nat.zero_le _
    · exact Nat.mod_lt _ hp
  | canonical => exact (Nat.mod_lt _ hp).le

/-- The reduction keeps the residue class (41_kernel R101). -/
theorem red_modEq (m : ReduceMode) (x : Nat) : red m x ≡ x [MOD mersBase] := by
  rw [Nat.ModEq, mersBase_eq]
  cases m with
  | lazy =>
    simp only [red, mersBase_eq]
    split <;> omega
  | canonical => exact Nat.mod_mod x _

/-- LAZY gives 0 for 0 only (41_kernel R101). -/
theorem red_lazy_eq_zero_iff (x : Nat) : red .lazy x = 0 ↔ x = 0 := by
  simp only [red]
  split <;> simp_all

/-- The reduction depends on the residue class, and under LAZY on being 0. -/
theorem red_congr {m : ReduceMode} {a b : Nat} (h : a ≡ b [MOD mersBase]) (h0 : m = .lazy → (a = 0 ↔ b = 0)) :
    red m a = red m b := by
  rw [Nat.ModEq, mersBase_eq] at h
  cases m with
  | lazy =>
    have := h0 rfl
    simp only [red, mersBase_eq]
    split_ifs <;> omega
  | canonical => simpa only [red, mersBase_eq] using h

/-- A reduced summand may be left unreduced. -/
theorem red_red_add (m : ReduceMode) (a b : Nat) : red m (red m a + b) = red m (a + b) :=
  red_congr ((red_modEq m a).add_right b) fun h => by
    subst h
    have := red_lazy_eq_zero_iff a
    omega

theorem red_add_red (m : ReduceMode) (a b : Nat) : red m (a + red m b) = red m (a + b) := by
  rw [Nat.add_comm, red_red_add, Nat.add_comm]

@[simp] theorem red_zero (m : ReduceMode) : red m 0 = 0 := by cases m <;> rfl

/-- On [0, 2p] one fold and the conditional subtract are the reduction (41_kernel R100, R102). -/
theorem subtractOnce_fold {x : Nat} (m : ReduceMode) (h : x ≤ 2 * mersBase) : subtractOnce m (fold x) = red m x := by
  rw [mersBase_eq] at h
  rw [fold_eq]
  cases m with
  | lazy =>
    simp only [subtractOnce, red, mersBase_eq]
    split <;> omega
  | canonical =>
    simp only [subtractOnce, red]
    split <;> simp only [mersBase_eq] at * <;> omega

/-- modadd is red of the exact sum (41_kernel R104). -/
theorem modadd_eq_red {a b : Nat} (m : ReduceMode) (ha : a ≤ mersBase) (hb : b ≤ mersBase) :
    modadd m a b = red m (a + b) := subtractOnce_fold m (by omega)

theorem modadd_le {a b : Nat} (m : ReduceMode) (ha : a ≤ mersBase) (hb : b ≤ mersBase) : modadd m a b ≤ mersBase :=
  modadd_eq_red m ha hb ▸ red_le m _

/-- On [0, p·(p+1)] reduce128 is the reduction (41_kernel R102, R103). -/
theorem reduce128_eq_red {x : Nat} (m : ReduceMode) (h : x ≤ reduceMax) : reduce128 m x = red m x := by
  have hx : x ≤ 2305843009213693951 * 2305843009213693952 := h
  have hwide := foldWide_eq x
  rw [reduce128, subtractOnce_fold m (by rw [mersBase_eq]; omega)]
  exact red_congr (by rw [Nat.ModEq, mersBase_eq]; omega) fun _ => by omega

/-- A product of two residues plus a residue is in the domain of the reduction (41_kernel R106). -/
theorem mul_add_le_reduceMax {acc a b : Nat} (hc : acc ≤ mersBase) (ha : a ≤ mersBase) (hb : b ≤ mersBase) :
    acc + a * b ≤ reduceMax :=
  calc acc + a * b ≤ mersBase + mersBase * mersBase := Nat.add_le_add hc (Nat.mul_le_mul ha hb)
    _ = reduceMax := by decide

/-- modmul is red of the exact product (41_kernel R105). -/
theorem modmul_eq_red {a b : Nat} (m : ReduceMode) (ha : a ≤ mersBase) (hb : b ≤ mersBase) :
    modmul m a b = red m (a * b) :=
  reduce128_eq_red m (by simpa using mul_add_le_reduceMax (Nat.zero_le _) ha hb)

/-- fmma is red of the exact sum (41_kernel R106). -/
theorem fmma_eq_red {acc a b : Nat} (m : ReduceMode) (hc : acc ≤ mersBase) (ha : a ≤ mersBase) (hb : b ≤ mersBase) :
    fmma m acc a b = red m (acc + a * b) := reduce128_eq_red m (mul_add_le_reduceMax hc ha hb)

/-- Adding up with modadd from a reduced start is the reduction of the exact sum. -/
theorem foldl_modadd_eq_red (m : ReduceMode) (a : Nat) {v : List Nat} (hv : residues v) :
    v.foldl (modadd m) (red m a) = red m (a + v.sum) := by
  induction v generalizing a with
  | nil => simp
  | cons x v ih =>
    rw [List.foldl_cons, modadd_eq_red m (red_le m a) (hv x (by simp)), red_red_add,
      ih _ fun y hy => hv y (by simp [hy]), List.sum_cons, Nat.add_assoc]

/-- csum_full is red of the exact sum (41_kernel R107). -/
theorem csumFull_eq_red (m : ReduceMode) {v : List Nat} (hv : residues v) : csumFull m v = red m v.sum := by
  have h := foldl_modadd_eq_red m 0 hv
  rwa [red_zero, Nat.zero_add] at h

/-- csum_excl0 is red of the exact sum of the elements from index 1 on (41_kernel R108). -/
theorem csumExcl0_eq_red (m : ReduceMode) {v : List Nat} (hv : residues v) : csumExcl0 m v = red m v.tail.sum :=
  csumFull_eq_red m fun x hx => hv x (List.mem_of_mem_tail hx)

theorem csumFull_le (m : ReduceMode) {v : List Nat} (hv : residues v) : csumFull m v ≤ mersBase :=
  csumFull_eq_red m hv ▸ red_le m _

theorem csumExcl0_le (m : ReduceMode) {v : List Nat} (hv : residues v) : csumExcl0 m v ≤ mersBase :=
  csumExcl0_eq_red m hv ▸ red_le m _

/-! ### The raw iteration (42_iteration) -/

/-- A legal SPECIAL_C is a residue (00_scope R8). -/
theorem specialC_le {c : Config} {k : Word} (hc : c.wf) (hk : c.specialC = some k) : k.toNat ≤ mersBase := by
  obtain ⟨-, -, hs, -⟩ := hc
  simpa [Config.specialOk, hk] using hs

/-- The generator of configuration c: N residues and a residue as checksum (10_state R21 to R23). -/
structure GenOk (c : Config) (g : Gen) : Prop where
  length : g.v.length = c.n
  elements : residues g.v
  checksum : g.cs ≤ mersBase

/-- The checksum follows the EXCL0 convention (10_state R23). -/
def GenExcl0 (c : Config) (g : Gen) : Prop := g.cs = csumExcl0 c.pReduce g.v

theorem excl0Gen_excl0 (c : Config) (v : List Nat) : GenExcl0 c (excl0Gen c v) := rfl

theorem excl0Gen_ok {c : Config} {v : List Nat} (hl : v.length = c.n) (hv : residues v) : GenOk c (excl0Gen c v) :=
  ⟨hl, hv, csumExcl0_le c.pReduce hv⟩

@[simp] theorem iterLoop_length (m : ReduceMode) (part carry total : Nat) (v : List Nat) :
    (iterLoop m part carry total v).1.length = v.length := by
  induction v generalizing part carry total with
  | nil => rfl
  | cons x v ih => simp [iterLoop, ih]

/-- The running total adds up the new elements (42_iteration R120). -/
theorem iterLoop_total (m : ReduceMode) (part carry total : Nat) (v : List Nat) :
    (iterLoop m part carry total v).2 = total + (iterLoop m part carry total v).1.sum := by
  induction v generalizing part carry total with
  | nil => rfl
  | cons x v ih => simp [iterLoop, ih, Nat.add_assoc]

/-- Every carry is a residue (42_iteration R126). -/
theorem iterLoop_residues (m : ReduceMode) {part carry : Nat} (total : Nat) {v : List Nat} (hp : part ≤ mersBase)
    (hc : carry ≤ mersBase) (hv : residues v) : residues (iterLoop m part carry total v).1 := by
  induction v generalizing part carry total with
  | nil => exact List.forall_mem_nil _
  | cons x v ih =>
    have hp' := modadd_le m hp (hv x (by simp))
    have hc' := modadd_le m hc hp'
    intro y hy
    rcases List.mem_cons.1 hy with rfl | hy
    · exact hc'
    · exact ih _ hp' hc' (fun z hz => hv z (by simp [hz])) y hy

@[simp] theorem iterSweep_length (m : ReduceMode) (g : Gen) : (iterSweep m g).1.length = g.v.length := by
  unfold iterSweep
  split <;> simp_all

/-- The sweep's total is the sum of its new vector from index 1 on (42_iteration R120). -/
theorem iterSweep_total (m : ReduceMode) (g : Gen) : (iterSweep m g).2 = (iterSweep m g).1.tail.sum := by
  unfold iterSweep
  split
  · rfl
  · simp [iterLoop_total]

theorem iterSweep_residues {c : Config} {g : Gen} (m : ReduceMode) (hg : GenOk c g) : residues (iterSweep m g).1 := by
  obtain ⟨-, hv, hcs⟩ := hg
  unfold iterSweep
  split
  · exact List.forall_mem_nil _
  · next x v hgv =>
    rw [hgv] at hv
    have hcarry := modadd_le m (hv x (by simp)) hcs
    intro y hy
    rcases List.mem_cons.1 hy with rfl | hy
    · exact hcarry
    · exact iterLoop_residues m 0 (Nat.zero_le _) hcarry (fun z hz => hv z (by simp [hz])) y hy

/-- An element of a vector of residues, or the 0 beyond its end, is a residue. -/
theorem getD_le_of_residues {v : List Nat} (hv : residues v) (i : Nat) : v.getD i 0 ≤ mersBase := by
  rw [List.getD_eq_getElem?_getD]
  cases h : v[i]? with
  | none => exact Nat.zero_le _
  | some x => exact hv x (List.mem_of_getElem? h)

/-- The SPECIAL correction is a residue (42_iteration R121, R126). -/
theorem specialCorr_le {c : Config} {g : Gen} (hc : c.wf) (hg : GenOk c g) : specialCorr c g ≤ mersBase := by
  unfold specialCorr
  split
  · exact Nat.zero_le _
  · next k hk => exact modmul_eq_red _ (specialC_le hc hk) (getD_le_of_residues hg.elements 1) ▸ red_le _ _

@[simp] theorem specialV_length (c : Config) (g : Gen) (v : List Nat) : (specialV c g v).length = v.length := by
  unfold specialV
  split <;> simp

theorem specialV_residues {c : Config} {g : Gen} {v : List Nat} (hc : c.wf) (hg : GenOk c g) (hv : residues v) :
    residues (specialV c g v) := by
  unfold specialV
  split
  · exact hv
  · intro y hy
    rcases List.mem_or_eq_of_mem_set hy with hy | rfl
    · exact hv y hy
    · exact modadd_le _ (getD_le_of_residues hv 2) (specialCorr_le hc hg)

/-- What replacing an element does to the sum. -/
theorem sum_set_add_getD {v : List Nat} {i : Nat} (x : Nat) (h : i < v.length) :
    (v.set i x).sum + v.getD i 0 = v.sum + x := by
  induction v generalizing i with
  | nil => simp at h
  | cons y v ih =>
    cases i with
    | zero => simp; omega
    | succ i =>
      have := ih (i := i) (by simpa using h)
      simp only [List.set_cons_succ, List.sum_cons, List.getD_cons_succ]
      omega

/-- Adding x to one element, reduced, adds x to the reduced sum. -/
theorem red_sum_set {v : List Nat} {i : Nat} (m : ReduceMode) (x : Nat) (h : i < v.length) :
    red m (v.set i (red m (v.getD i 0 + x))).sum = red m (v.sum + x) := by
  have h0 := sum_set_add_getD 0 h
  have hx := sum_set_add_getD (red m (v.getD i 0 + x)) h
  calc red m (v.set i (red m (v.getD i 0 + x))).sum
      = red m ((v.set i 0).sum + red m (v.getD i 0 + x)) := by congr 1; omega
    _ = red m (v.sum + x) := by rw [red_add_red]; congr 1; omega

/-- The SPECIAL term changes the reduced sum of the vector by the correction (42_iteration R121, R125). -/
theorem red_specialV_sum {c : Config} {g : Gen} {v : List Nat} (hc : c.wf) (hg : GenOk c g) (hv : residues v)
    (hl : v.length = c.n) :
    red c.pReduce (specialV c g v).tail.sum = red c.pReduce (v.tail.sum + specialCorr c g) := by
  have hn : 8 ≤ c.n := hc.1
  unfold specialV
  split
  · next h => simp [specialCorr, h]
  · rw [modadd_eq_red _ (getD_le_of_residues hv 2) (specialCorr_le hc hg)]
    cases v with
    | nil => simp at hl; omega
    | cons y v => exact red_sum_set (i := 1) _ _ (by simp at hl; omega)

/-- The running total stays inside the domain of the reduction (42_iteration R126). -/
theorem iterTotal_le {c : Config} {g : Gen} (hc : c.wf) (hg : GenOk c g) :
    iterTotal c g ≤ c.n * mersBase ∧ iterTotal c g ≤ reduceMax := by
  have hn : 8 ≤ c.n := hc.1
  have hn' : c.n ≤ 65535 := hc.2.1
  have hcorr := specialCorr_le hc hg
  have hsum : (iterSweep c.pReduce g).1.tail.sum ≤ (c.n - 1) * mersBase := by
    have := List.sum_le_card_nsmul (iterSweep c.pReduce g).1.tail mersBase fun x hx =>
      iterSweep_residues c.pReduce hg x (List.mem_of_mem_tail hx)
    simpa [hg.length] using this
  have hmul : c.n * mersBase = (c.n - 1) * mersBase + mersBase := by
    rw [← Nat.succ_mul]; congr 1; omega
  have hdom : c.n * mersBase ≤ reduceMax :=
    (Nat.mul_le_mul_right mersBase hn').trans (by decide)
  rw [iterTotal, iterSweep_total]
  omega

/-- A raw iteration gives N residues and a residue as checksum (42_iteration R126). -/
theorem iterateRaw_ok {c : Config} {g : Gen} (hc : c.wf) (hg : GenOk c g) : GenOk c (iterateRaw c g) where
  length := by simp [iterateRaw, hg.length]
  elements := specialV_residues hc hg (iterSweep_residues c.pReduce hg)
  checksum := (reduce128_eq_red c.pReduce (iterTotal_le hc hg).2).trans_le (red_le _ _)

/-- A raw iteration leaves the EXCL0 checksum of the new vector, whatever the old one was (42_iteration R125). -/
theorem iterateRaw_excl0 {c : Config} {g : Gen} (hc : c.wf) (hg : GenOk c g) : GenExcl0 c (iterateRaw c g) := by
  have hsweep := iterSweep_residues c.pReduce hg
  calc (iterateRaw c g).cs = red c.pReduce (iterTotal c g) := reduce128_eq_red _ (iterTotal_le hc hg).2
    _ = red c.pReduce (specialV c g (iterSweep c.pReduce g).1).tail.sum := by
      rw [red_specialV_sum hc hg hsweep (by simp [hg.length]), ← iterSweep_total, iterTotal]
    _ = csumExcl0 c.pReduce (iterateRaw c g).v := (csumExcl0_eq_red _ (iterateRaw_ok hc hg).elements).symm

theorem iterateTimes_ok {c : Config} (hc : c.wf) (k : Nat) {g : Gen} (hg : GenOk c g) : GenOk c (iterateTimes c k g) := by
  induction k generalizing g with
  | zero => exact hg
  | succ k ih => exact ih (iterateRaw_ok hc hg)

/-- After at least one raw iteration the checksum is csum_excl0 (42_iteration R125). -/
theorem iterateTimes_succ_excl0 {c : Config} (hc : c.wf) (k : Nat) {g : Gen} (hg : GenOk c g) :
    GenExcl0 c (iterateTimes c (k + 1) g) := by
  induction k generalizing g with
  | zero => exact iterateRaw_excl0 hc hg
  | succ k ih => exact ih (iterateRaw_ok hc hg)

end Sys2Proof.Proofs

namespace Sys2Proof.Proofs

open Sys2Proof Sys2Proof.Machine Sys2Proof.Laws

/-! ### The generators that commands install -/

theorem iterate_ok {s : State} (hc : s.cfg.wf) {g : Gen} (hg : GenOk s.cfg g) : GenOk s.cfg (s.iterate g) :=
  iterateTimes_ok hc _ hg

theorem iterate_excl0 {s : State} (hc : s.cfg.wf) {g : Gen} (hg : GenOk s.cfg g) : GenExcl0 s.cfg (s.iterate g) :=
  iterateTimes_succ_excl0 hc _ hg

section FillUniform

variable {s : State}

theorem fillBlocks_ok (hc : s.cfg.wf) (k : Nat) {g : Gen} (hg : GenOk s.cfg g) : GenOk s.cfg (s.fillBlocks k g).2 := by
  induction k generalizing g with
  | zero => exact hg
  | succ k ih => exact ih (iterate_ok hc hg)

theorem fillBlocks_excl0 (hc : s.cfg.wf) (k : Nat) {g : Gen} (hg : GenOk s.cfg g) (h : 0 < k ∨ GenExcl0 s.cfg g) :
    GenExcl0 s.cfg (s.fillBlocks k g).2 := by
  induction k generalizing g with
  | zero => exact h.resolve_left (Nat.lt_irrefl 0)
  | succ k ih => exact ih (iterate_ok hc hg) (.inr (iterate_excl0 hc hg))

/-- A full block has N − 1 residues (43_extraction R143). -/
theorem fillBlocks_length (hc : s.cfg.wf) (k : Nat) {g : Gen} (hg : GenOk s.cfg g) :
    (s.fillBlocks k g).1.length = k * (s.cfg.n - 1) := by
  induction k generalizing g with
  | zero => simp [State.fillBlocks]
  | succ k ih =>
    have hi := iterate_ok hc hg
    rw [State.fillBlocks, List.length_append, List.length_tail, hi.length, ih hi, Nat.succ_mul, Nat.add_comm]

/-- The blocks of FILL_UNIFORM hold ARG0 residues together (43_extraction R143). -/
theorem fillQuot_mul_add_fillRem (s : State) : s.fillQuot * (s.cfg.n - 1) + s.fillRem = s.arg0.toNat := by
  rw [Nat.mul_comm]
  exact Nat.div_add_mod _ _

theorem fillRem_lt (hc : s.cfg.wf) : s.fillRem < s.cfg.n := by
  have hn : 8 ≤ s.cfg.n := hc.1
  have : s.fillRem < s.cfg.n - 1 := Nat.mod_lt _ (by omega)
  omega

theorem fillGen_ok (hc : s.cfg.wf) (hg : GenOk s.cfg s.gen) : GenOk s.cfg s.fillGen := by
  have hb := fillBlocks_ok hc s.fillQuot hg
  unfold State.fillGen
  split
  · exact hb
  · exact iterate_ok hc hb

/-- FILL_UNIFORM of no slot leaves the generator as it was (43_extraction R143). -/
theorem fillGen_zero (h : s.arg0 = 0) : s.fillGen = s.gen := by
  simp [State.fillGen, State.fillRem, State.fillQuot, State.fillBlocks, h]

theorem fillGen_excl0 (hc : s.cfg.wf) (hg : GenOk s.cfg s.gen) (h : s.arg0 ≠ 0) : GenExcl0 s.cfg s.fillGen := by
  unfold State.fillGen
  split
  · next hr =>
    have hsum := fillQuot_mul_add_fillRem s
    have hq : 0 < s.fillQuot := by
      refine Nat.pos_of_ne_zero fun hq => h (BitVec.eq_of_toNat_eq ?_)
      rw [hq, hr] at hsum
      simpa using hsum.symm
    exact fillBlocks_excl0 hc _ hg (.inl hq)
  · exact iterate_excl0 hc (fillBlocks_ok hc _ hg)

/-- FILL_UNIFORM writes one word for each of its ARG0 slots (43_extraction R143). -/
theorem fillWords_length (hc : s.cfg.wf) (hg : GenOk s.cfg s.gen) : s.fillWords.length = s.arg0.toNat := by
  have hr := fillRem_lt hc
  have hsum := fillQuot_mul_add_fillRem s
  rw [State.fillWords, State.fillResidues, List.length_map, List.length_append, fillBlocks_length hc _ hg,
    List.length_take, (fillGen_ok hc hg).length]
  omega

/-- CURSOR after FILL_UNIFORM (43_extraction R143, 10_state R24). -/
theorem fillCursor_le (hc : s.cfg.wf) : s.fillCursor.toNat ≤ s.cfg.n := by
  have hr := fillRem_lt hc
  refine (BitVec.toNat_ofNat _ _).trans_le ((Nat.mod_le _ _).trans ?_)
  split <;> omega

end FillUniform

@[simp] theorem basisVector_length (n k : Nat) : (basisVector n k).length = n := by simp [basisVector]

theorem basisVector_residues (n k : Nat) : residues (basisVector n k) := by
  intro x hx
  rcases List.mem_or_eq_of_mem_set hx with hx | rfl
  · rw [List.eq_of_mem_replicate hx]; exact Nat.zero_le _
  · decide

/-- The checksum SEED_BASIS installs follows EXCL0 (44_seeding R161). -/
theorem basisVector_csum {n k : Nat} (m : ReduceMode) (h : k < n) :
    csumExcl0 m (basisVector n k) = if k = 0 then 0 else 1 := by
  rw [csumExcl0_eq_red m (basisVector_residues n k)]
  obtain ⟨n, rfl⟩ : ∃ n', n = n' + 1 := ⟨n - 1, by omega⟩
  cases k with
  | zero => simp [basisVector, List.replicate_succ]
  | succ k =>
    have hk : k < n := by omega
    have hsum := sum_set_add_getD (v := List.replicate n 0) 1 (by simpa using hk)
    simp only [List.sum_replicate, List.getD_replicate _ hk, smul_zero, Nat.add_zero, Nat.zero_add] at hsum
    rw [basisVector, List.replicate_succ, List.set_cons_succ, List.tail_cons, hsum]
    cases m <;> rfl

@[simp] theorem lcgFill_length (k l : Nat) : (lcgFill k l).length = k := by
  induction k generalizing l with
  | zero => rfl
  | succ k ih => simp [lcgFill, ih]

theorem lcgFill_residues (k l : Nat) : residues (lcgFill k l) := by
  induction k generalizing l with
  | zero => exact List.forall_mem_nil _
  | succ k ih => exact List.forall_mem_cons.2 ⟨Nat.and_le_right, ih _⟩

theorem linearVector_residues (n seed : Nat) : residues (linearVector n seed) :=
  List.forall_mem_cons.2 ⟨Nat.and_le_right, lcgFill_residues _ _⟩

/-- SEED_LINEAR installs a legal generator (44_seeding R163, R164). -/
theorem linearGen_ok {c : Config} (hc : c.wf) (seed : Nat) :
    GenOk c { v := linearVector c.n seed, cs := linearCsum c (linearVector c.n seed) } where
  length := by
    have hn : 8 ≤ c.n := hc.1
    simp [linearVector]
    omega
  elements := linearVector_residues _ _
  checksum := by
    show linearCsum c (linearVector c.n seed) ≤ mersBase
    unfold linearCsum
    split
    · exact csumFull_le _ (linearVector_residues _ _)
    · exact csumExcl0_le _ (linearVector_residues _ _)

section SkipAhead

variable {c : Config}

/-- Every entry of a legal table is a residue (00_scope R10). -/
theorem tableRow_residues (hc : c.wf) {t : List (List Word)} (ht : c.table = some t) (k : Nat) :
    residues (tableRow t k) := by
  obtain ⟨-, -, -, htab, -⟩ := hc
  simp only [Config.tableOk, ht, Bool.and_eq_true, List.all_eq_true, decide_eq_true_eq] at htab
  intro x hx
  obtain ⟨w, hw, rfl⟩ := List.mem_map.1 hx
  rw [List.getD_eq_getElem?_getD] at hw
  cases hrow : t[k]? with
  | none => simp [hrow] at hw
  | some row => exact (htab.2 row (List.mem_of_getElem? hrow)).2 w (by simpa [hrow] using hw)

theorem accumulate_length (m : ReduceMode) (w : Nat) {cum y : List Nat} (h : cum.length = y.length) :
    (accumulate m w cum y).length = y.length := by simp [accumulate, h]

theorem accumulate_residues (m : ReduceMode) {w : Nat} {cum y : List Nat} (hw : w ≤ mersBase) (hcum : residues cum)
    (hy : residues y) : residues (accumulate m w cum y) := by
  intro x hx
  obtain ⟨a, b, ha, hb, rfl⟩ : ∃ a b, a ∈ cum ∧ b ∈ y ∧ fmma m a w b = x := by
    rw [accumulate, ← List.map_uncurry_zip_eq_zipWith] at hx
    obtain ⟨⟨a, b⟩, hab, rfl⟩ := List.mem_map.1 hx
    exact ⟨a, b, (List.of_mem_zip hab).1, (List.of_mem_zip hab).2, rfl⟩
  exact fmma_eq_red m (hcum a ha) hw (hy b hb) ▸ red_le m _

/-- The lag loop leaves N residues (45_skip R181). -/
theorem lagLoop_ok (hc : c.wf) {row : List Nat} (hrow : residues row) {g : Gen} (hg : GenOk c g) {cum : List Nat}
    (hl : cum.length = c.n) (hcum : residues cum) :
    (lagLoop c row g cum).length = c.n ∧ residues (lagLoop c row g cum) := by
  induction row generalizing g cum with
  | nil => exact ⟨hl, hcum⟩
  | cons w row ih =>
    obtain ⟨hw, hrow⟩ := List.forall_mem_cons.1 hrow
    exact ih hrow (iterateRaw_ok hc hg) ((accumulate_length _ _ (hl.trans hg.length.symm)).trans hg.length)
      (accumulate_residues _ hw hcum hg.elements)

theorem skipRow_ok (hc : c.wf) {row : List Nat} (hrow : residues row) {g : Gen} (hg : GenOk c g) :
    GenOk c (skipRow c row g) := by
  obtain ⟨hl, hv⟩ := lagLoop_ok hc hrow hg (List.length_replicate (n := c.n) (a := 0)) fun x hx => by
    rw [List.eq_of_mem_replicate hx]; exact Nat.zero_le _
  exact excl0Gen_ok hl hv

theorem skipRows_ok (hc : c.wf) {t : List (List Word)} (ht : c.table = some t) (ids ks : List Nat) {g : Gen}
    (hg : GenOk c g) : GenOk c (skipRows c t ids ks g) := by
  induction ks generalizing g with
  | nil => exact hg
  | cons k ks ih =>
    refine ih ?_
    split
    · exact skipRow_ok hc (tableRow_residues hc ht k) hg
    · exact hg

/-- A skip of a vector of N residues installs a legal generator (45_skip R182). -/
theorem skipGen_ok (hc : c.wf) {t : List (List Word)} (ht : c.table = some t) (ids : List Nat) {y : List Nat}
    (hl : y.length = c.n) (hy : residues y) : GenOk c (skipGen c t ids y) :=
  have h := skipRows_ok hc ht ids (List.range 128) (excl0Gen_ok hl hy)
  excl0Gen_ok h.length h.elements

/-- An ID component below 2^32 shifted by at most 28 is a residue (45_skip R186, 00_scope R9). -/
theorem shiftedId_le {x k : Nat} (hx : x < 2 ^ 32) (hk : k ≤ 28) : x <<< k ≤ mersBase := by
  rw [Nat.shiftLeft_eq]
  calc x * 2 ^ k ≤ 2 ^ 32 * 2 ^ 28 := Nat.mul_le_mul hx.le (Nat.pow_le_pow_right (by decide) hk)
    _ ≤ mersBase := by decide

theorem packedIds_residues (hc : c.wf) {cl ma ru st : Nat} (h0 : cl < 2 ^ 32) (h1 : ma < 2 ^ 32) (h2 : ru < 2 ^ 32)
    (h3 : st < 2 ^ 32) : residues (packedIds c cl ma ru st) := by
  obtain ⟨-, -, -, -, ⟨f0, f1, f2, f3⟩, -⟩ := hc
  have hid : ∀ {x : Nat}, x < 2 ^ 32 → x ≤ mersBase := fun h => h.le.trans (by decide)
  simp only [packedIds, residues, List.forall_mem_append, List.forall_mem_cons]
  refine ⟨⟨hid h0, hid h1, hid h2, hid h3, shiftedId_le h0 f0, shiftedId_le h1 f1, shiftedId_le h2 f2,
    shiftedId_le h3 f3, List.forall_mem_nil _⟩, fun x hx => ?_⟩
  rw [List.eq_of_mem_replicate hx]
  exact Nat.zero_le _

theorem packedIds_length (hc : c.wf) (cl ma ru st : Nat) : (packedIds c cl ma ru st).length = c.n := by
  have hn : 8 ≤ c.n := hc.1
  simp [packedIds]
  omega

/-- The fallback installs a legal generator with the EXCL0 checksum (45_skip R186). -/
theorem fallbackGen_ok (hc : c.wf) {cl ma ru st : Nat} (h0 : cl < 2 ^ 32) (h1 : ma < 2 ^ 32) (h2 : ru < 2 ^ 32)
    (h3 : st < 2 ^ 32) : GenOk c (fallbackGen c cl ma ru st) ∧ GenExcl0 c (fallbackGen c cl ma ru st) := by
  have h := iterateRaw_ok hc (excl0Gen_ok (packedIds_length hc cl ma ru st) (packedIds_residues hc h0 h1 h2 h3))
  exact ⟨iterateRaw_ok hc h, iterateRaw_excl0 hc h⟩

end SkipAhead

/-! ### What a successful command writes -/

/-- Success s i s': command i passes its checks in s and its updates give s'. Values that no statement here speaks of
(RESULT) are left open. -/
inductive Success (s : State) : Instr → State → Prop
  | nop : Success s .nop s
  | modadd (r : Word) : Success s .modadd { s with result := r }
  | modmul (r : Word) : Success s .modmul { s with result := r }
  | fmma (r : Word) : Success s .fmma { s with result := r }
  | reduce (r : Word) : Success s .reduce { s with result := r }
  | iterate (hs : s.seeded = true) : Success s .iterate (s.withGen (s.iterate s.gen))
  | iterateN (hs : s.seeded = true) : Success s .iterateN (s.withGen (iterateTimes s.cfg s.arg0.toNat s.gen))
  | nextRaw (hs : s.seeded = true) (r : Word) : Success s .nextRaw { s.afterNext with result := r }
  | nextUniform (hs : s.seeded = true) (r : Word) : Success s .nextUniform { s.afterNext with result := r }
  | fillUniform (hs : s.seeded = true) (ha : s.fillAddressOk) :
      Success s .fillUniform
        { s.withGen s.fillGen with cursor := s.fillCursor, mem := s.portWrites s.arg1.toNat s.fillWords }
  | seedBasis (hk : s.arg0.toNat < s.cfg.n) :
      Success s .seedBasis
        (s.install { v := basisVector s.cfg.n s.arg0.toNat, cs := if s.arg0.toNat = 0 then 0 else 1 })
  | seedLinear :
      Success s .seedLinear
        (s.install { v := linearVector s.cfg.n s.arg0.toNat,
                     cs := linearCsum s.cfg (linearVector s.cfg.n s.arg0.toNat) })
  | recomputeCsum (hs : s.seeded = true) :
      Success s .recomputeCsum { s with csum := BitVec.ofNat 64 (csumExcl0 s.cfg.pReduce s.gen.v) }
  | seedStreamTable (reqt : Bool) {t : List (List Word)} (ht : s.cfg.table = some t) :
      Success s (.seedStream reqt) (s.install (skipGen s.cfg t s.levelIds (basisVector s.cfg.n 0)))
  | seedStreamFallback (reqt : Bool) (hids : s.idsOk) :
      Success s (.seedStream reqt)
        (s.install (fallbackGen s.cfg s.arg0.toNat s.arg1.toNat s.arg2.toNat s.arg3.toNat))
  | skip (hs : s.seeded = true) {t : List (List Word)} (ht : s.cfg.table = some t) :
      Success s .skip (s.install (skipGen s.cfg t s.levelIds s.gen.v))
  | exportState (hs : s.seeded = true) (ha : addressOk s.cfg s.arg0.toNat (recordWords s.cfg)) :
      Success s .exportState { s with mem := s.portWrites s.arg0.toNat s.exportWords }
  | importState (hv : residues (s.importWords.drop 3)) (hcur : s.importWords.getD 1 0 ≤ s.cfg.n)
      (hcs : s.importWords.getD 2 0 = csumExcl0 s.cfg.pReduce (s.importWords.drop 3)) :
      Success s .importState
        { s.install { v := s.importWords.drop 3, cs := s.importWords.getD 2 0 } with
          cursor := BitVec.ofNat 16 (s.importWords.getD 1 0) }
  | loadv (hv : residues s.loadWords) : Success s .loadv (s.install (excl0Gen s.cfg s.loadWords))

theorem ends_success {s s' : State} {i : Instr} (h : Success s i s') :
    (∃ u, Success s i u ∧ succeed s' = succeed u) ∨ ∃ e, succeed s' = raise e s := .inl ⟨s', h, rfl⟩

theorem ends_raise {s : State} (i : Instr) (e : ErrCause) :
    (∃ u, Success s i u ∧ raise e s = succeed u) ∨ ∃ e', raise e s = raise e' s := .inr ⟨e, rfl⟩

/-- Every command ends with the updates of its success or raises an error (40_control R92, 60_exceptions R224). -/
theorem exec_success_or_raise (i : Instr) (s : State) :
    (∃ s', Success s i s' ∧ exec i s = succeed s') ∨ ∃ e, exec i s = raise e s := by
  cases i
  case nop => exact ends_success .nop
  case modadd =>
    simp only [exec, execModadd]
    split
    · exact ends_success (.modadd _)
    · exact ends_raise _ _
  case modmul =>
    simp only [exec, execModmul]
    split
    · exact ends_success (.modmul _)
    · exact ends_raise _ _
  case fmma =>
    simp only [exec, execFmma]
    split
    · exact ends_success (.fmma _)
    · exact ends_raise _ _
  case reduce =>
    simp only [exec, execReduce]
    split
    · exact ends_success (.reduce _)
    · exact ends_raise _ _
  case iterate =>
    simp only [exec, execIterate]
    split
    · next hs => exact ends_success (.iterate hs)
    · exact ends_raise _ _
  case iterateN =>
    simp only [exec, execIterateN]
    split
    · next hs =>
      split
      · exact ends_success (.iterateN hs)
      · exact ends_raise _ _
    · exact ends_raise _ _
  case nextRaw =>
    simp only [exec, execNextRaw]
    split
    · next hs => exact ends_success (.nextRaw hs _)
    · exact ends_raise _ _
  case nextUniform =>
    simp only [exec, execNextUniform]
    split
    · next hs => exact ends_success (.nextUniform hs _)
    · exact ends_raise _ _
  case fillUniform =>
    simp only [exec, execFillUniform]
    split
    · next hs =>
      split
      · split
        · next ha => exact ends_success (.fillUniform hs ha)
        · exact ends_raise _ _
      · exact ends_raise _ _
    · exact ends_raise _ _
  case seedBasis =>
    simp only [exec, execSeedBasis]
    split
    · next hk => exact ends_success (.seedBasis hk)
    · exact ends_raise _ _
  case seedLinear =>
    simp only [exec, execSeedLinear]
    split
    · exact ends_raise _ _
    · exact ends_success .seedLinear
  case recomputeCsum =>
    simp only [exec, execRecomputeCsum]
    split
    · next hs => exact ends_success (.recomputeCsum hs)
    · exact ends_raise _ _
  case seedStream reqt =>
    simp only [exec, execSeedStream]
    split
    · next hids =>
      split
      · next ht => exact ends_success (.seedStreamTable reqt ht)
      · split
        · exact ends_raise _ _
        · exact ends_success (.seedStreamFallback reqt hids)
    · exact ends_raise _ _
  case skip =>
    simp only [exec, execSkip]
    split
    · next hs =>
      split
      · split
        · exact ends_raise _ _
        · next ht => exact ends_success (.skip hs ht)
      · exact ends_raise _ _
    · exact ends_raise _ _
  case exportState =>
    simp only [exec, execExport]
    split
    · next hs =>
      split
      · next ha => exact ends_success (.exportState hs ha)
      · exact ends_raise _ _
    · exact ends_raise _ _
  case importState =>
    simp only [exec, execImport]
    split
    · split
      · split
        · next hv =>
          split
          · next hcur =>
            split
            · next hcs => exact ends_success (.importState hv hcur hcs)
            · exact ends_raise _ _
          · exact ends_raise _ _
        · exact ends_raise _ _
      · exact ends_raise _ _
    · exact ends_raise _ _
  case loadv =>
    simp only [exec, execLoadv]
    split
    · split
      · next hv => exact ends_success (.loadv hv)
      · exact ends_raise _ _
    · exact ends_raise _ _

/-- The next state of a command: the completion of its success, or a failing completion. -/
theorem exec_success_or_failed {i : Instr} {s t : State} (h : exec i s = .next t) :
    (∃ s', Success s i s' ∧ t = completed s') ∨ ∃ e, t = failed e s := by
  rcases exec_success_or_raise i s with ⟨s', hs, he⟩ | ⟨e, he⟩
  · exact .inl ⟨s', hs, ((succeed_eq_next s' t).1 (he ▸ h)).symm⟩
  · exact .inr ⟨e, ((raise_eq_next e s t).1 (he ▸ h)).symm⟩

/-- A command that ends with ERR = 0 has succeeded (40_control R92). -/
theorem exec_success {i : Instr} {s t : State} (h : exec i s = .next t) (he : t.err = false) :
    ∃ s', Success s i s' ∧ t = completed s' := by
  rcases exec_success_or_failed h with hs | ⟨e, rfl⟩
  · exact hs
  · exact absurd he (by simp)

end Sys2Proof.Proofs

namespace Sys2Proof.Proofs

open Sys2Proof Sys2Proof.Machine Sys2Proof.Laws

/-! ### The generator in the state, and what each command leaves of it -/

/-- Storing the generator a state holds gives back its V. -/
@[simp] theorem storedV_gen (s : State) : storedV s.gen.v = s.v := by
  simp [storedV, State.gen, Function.comp_def]

/-- A stored vector of residues holds the same numbers (10_state R21, R22). -/
theorem storedV_toNat {v : List Nat} (hv : residues v) : (storedV v).map BitVec.toNat = v := by
  rw [storedV, List.map_map]
  refine (List.map_congr_left fun x hx => ?_).trans v.map_id
  have hx' := hv x hx
  rw [mersBase_eq] at hx'
  exact (BitVec.toNat_ofNat x 64).trans (Nat.mod_eq_of_lt (by omega))

theorem genOk_of_inv {s : State} (h : EngineInv s) : GenOk s.cfg s.gen where
  length := by simp [State.gen, h.vLength]
  elements := by
    intro x hx
    obtain ⟨w, hw, rfl⟩ := List.mem_map.1 hx
    exact h.vResidues w hw
  checksum := h.csumResidue

/-- A state in which a legal generator is stored holds that generator. -/
theorem gen_of_stored {c : Config} {t : State} {g : Gen} (hg : GenOk c g) (hv : t.v = storedV g.v)
    (hs : t.csum = BitVec.ofNat 64 g.cs) : t.gen = g := by
  have hcs := hg.checksum
  rw [mersBase_eq] at hcs
  rw [State.gen, hv, hs, storedV_toNat hg.elements, BitVec.toNat_ofNat, Nat.mod_eq_of_lt (by omega)]

/-- The checksum command i, run in s, leaves with the generator g (10_state R23): EXCL0 after a command that makes a new
vector, the configured convention after SEED_LINEAR, and the old generator where nothing is written. -/
def LeavesChecksum (s : State) (g : Gen) : Instr → Prop
  | .iterate | .seedBasis | .seedStream _ | .skip | .importState | .loadv | .recomputeCsum => GenExcl0 s.cfg g
  | .seedLinear => g.cs = linearCsum s.cfg g.v
  | .nextRaw | .nextUniform => if s.cursor.toNat < s.cfg.n then g = s.gen else GenExcl0 s.cfg g
  | .iterateN | .fillUniform => if s.arg0 = 0 then g = s.gen else GenExcl0 s.cfg g
  | .nop | .modadd | .modmul | .fmma | .reduce | .exportState => g = s.gen

/-- The state t holds the legal generator g, which command i leaves when run in s, and a legal CURSOR. -/
structure Leaves (s : State) (i : Instr) (t : State) (g : Gen) : Prop where
  ok : GenOk s.cfg g
  v : t.v = storedV g.v
  csum : t.csum = BitVec.ofNat 64 g.cs
  cursor : t.cursor.toNat ≤ s.cfg.n
  checksum : LeavesChecksum s g i

section

variable {s : State}

/-- N fits in the 16 bits of CURSOR (00_scope R6). -/
theorem cursor_ofNat_le {k : Nat} (hk : k ≤ s.cfg.n) : (BitVec.ofNat 16 k).toNat ≤ s.cfg.n := by
  rw [BitVec.toNat_ofNat]
  exact (Nat.mod_le _ _).trans hk

/-- The record IMPORT accepts is a legal generator (46_transfer R202). -/
theorem importWords_ok (hv : residues (s.importWords.drop 3))
    (hcs : s.importWords.getD 2 0 = csumExcl0 s.cfg.pReduce (s.importWords.drop 3)) :
    GenOk s.cfg { v := s.importWords.drop 3, cs := s.importWords.getD 2 0 } :=
  ⟨by simp [State.importWords, recordWords], hv, hcs ▸ csumExcl0_le _ hv⟩

theorem leaves_install {i : Instr} {g : Gen} (hg : GenOk s.cfg g) (hi : LeavesChecksum s g i) :
    Leaves s i (s.install g) g := ⟨hg, rfl, rfl, cursor_ofNat_le le_rfl, hi⟩

variable (h : EngineInv s)
include h

theorem leaves_same {i : Instr} {t : State} (hv : t.v = s.v) (hs : t.csum = s.csum) (hu : t.cursor = s.cursor)
    (hi : LeavesChecksum s s.gen i) : Leaves s i t s.gen where
  ok := genOk_of_inv h
  v := by simpa using hv
  csum := by simpa [State.gen] using hs
  cursor := hu ▸ h.cursorRange
  checksum := hi

theorem leaves_withGen {i : Instr} {g : Gen} (hg : GenOk s.cfg g) (hi : LeavesChecksum s g i) :
    Leaves s i (s.withGen g) g := ⟨hg, rfl, rfl, h.cursorRange, hi⟩

/-- What next_raw leaves: the generator as it was while CURSOR is below N, else a refilled one (43_extraction R140). -/
theorem leaves_afterNext {i : Instr} (r : Word) (hi : i = .nextRaw ∨ i = .nextUniform) :
    ∃ g, Leaves s i { s.afterNext with result := r } g := by
  have hi' : ∀ g, LeavesChecksum s g i = if s.cursor.toNat < s.cfg.n then g = s.gen else GenExcl0 s.cfg g := by
    rcases hi with rfl | rfl <;> exact fun _ => rfl
  have hn : 8 ≤ s.cfg.n ∧ s.cfg.n ≤ 65535 := ⟨h.cfgLegal.1, h.cfgLegal.2.1⟩
  unfold State.afterNext
  split
  · next hlt =>
    refine ⟨s.gen, genOk_of_inv h, (storedV_gen s).symm, by simp [State.gen], ?_, by rw [hi', if_pos hlt]⟩
    exact (BitVec.toNat_add_of_lt (by simp; omega)).trans_le hlt
  · next hlt =>
    have hg := iterate_ok h.cfgLegal (genOk_of_inv h)
    refine ⟨s.iterate s.gen, hg, rfl, rfl, le_trans (b := 8) (show 2 ≤ 8 by decide) hn.1, ?_⟩
    rw [hi', if_neg hlt]
    exact iterate_excl0 h.cfgLegal (genOk_of_inv h)

/-- Every successful command leaves a legal generator with the checksum of its rule, and a legal CURSOR (10_state R22 to
R24). -/
theorem success_leaves {i : Instr} {t : State} (ht : Success s i t) : ∃ g, Leaves s i t g := by
  have hc := h.cfgLegal
  have hg := genOk_of_inv h
  cases ht with
  | nop | modadd | modmul | fmma | reduce | exportState => exact ⟨_, leaves_same h rfl rfl rfl rfl⟩
  | iterate => exact ⟨_, leaves_withGen h (iterate_ok hc hg) (iterate_excl0 hc hg)⟩
  | iterateN =>
    refine ⟨_, leaves_withGen h (iterateTimes_ok hc _ hg) ?_⟩
    show if s.arg0 = 0 then _ else _
    split
    · next h0 => rw [h0]; rfl
    · next h0 =>
      obtain ⟨k, hk⟩ : ∃ k, s.arg0.toNat = k + 1 :=
        Nat.exists_eq_succ_of_ne_zero fun hz => h0 (BitVec.eq_of_toNat_eq hz)
      rw [hk]
      exact iterateTimes_succ_excl0 hc k hg
  | nextRaw _ r => exact leaves_afterNext h r (.inl rfl)
  | nextUniform _ r => exact leaves_afterNext h r (.inr rfl)
  | fillUniform =>
    refine ⟨s.fillGen, fillGen_ok hc hg, rfl, rfl, fillCursor_le hc, ?_⟩
    show if s.arg0 = 0 then _ else _
    split
    · next h0 => exact fillGen_zero h0
    · next h0 => exact fillGen_excl0 hc hg h0
  | seedBasis hk =>
    have hcs := (basisVector_csum s.cfg.pReduce hk).symm
    exact ⟨_, leaves_install ⟨basisVector_length _ _, basisVector_residues _ _,
      hcs ▸ csumExcl0_le _ (basisVector_residues _ _)⟩ hcs⟩
  | seedLinear => exact ⟨_, leaves_install (linearGen_ok hc _) rfl⟩
  | recomputeCsum =>
    exact ⟨excl0Gen s.cfg s.gen.v, excl0Gen_ok hg.length hg.elements, (storedV_gen s).symm, rfl, h.cursorRange,
      excl0Gen_excl0 _ _⟩
  | seedStreamTable reqt ht =>
    exact ⟨_, leaves_install (skipGen_ok hc ht _ (basisVector_length _ _) (basisVector_residues _ _))
      (excl0Gen_excl0 _ _)⟩
  | seedStreamFallback reqt hids =>
    obtain ⟨h0, h1, h2, h3⟩ := hids
    obtain ⟨hok, hex⟩ := fallbackGen_ok hc h0 h1 h2 h3
    exact ⟨_, leaves_install hok hex⟩
  | skip _ ht => exact ⟨_, leaves_install (skipGen_ok hc ht _ hg.length hg.elements) (excl0Gen_excl0 _ _)⟩
  | importState hv hcur hcs => exact ⟨_, importWords_ok hv hcs, rfl, rfl, cursor_ofNat_le hcur, hcs⟩
  | loadv hv =>
    exact ⟨_, leaves_install (excl0Gen_ok (by simp [State.loadWords]) hv) (excl0Gen_excl0 _ _)⟩

end

/-! ### What a successful command leaves of the other fields -/

section

variable {s t : State} {i : Instr}

/-- A successful command updates V, CSUM, CURSOR, SEEDED, RESULT and memory only. -/
theorem Success.updates (h : Success s i t) : Updates s t := by
  cases h with
  | nextRaw _ r | nextUniform _ r => exact afterNext_updates s r
  | _ => rfl

@[simp] theorem afterNext_mem (s : State) : s.afterNext.mem = s.mem := by
  unfold State.afterNext
  split <;> rfl

@[simp] theorem afterNext_seeded (s : State) : s.afterNext.seeded = s.seeded := by
  unfold State.afterNext
  split <;> rfl

/-- Only FILL_UNIFORM and EXPORT write memory (20_memory R51). -/
theorem Success.mem_eq (h : Success s i t) (hi : writesMemory i = false) : t.mem = s.mem := by
  cases h with
  | nextRaw | nextUniform => exact afterNext_mem s
  | fillUniform | exportState => cases hi
  | _ => rfl

/-- Only the six commands that return a scalar write RESULT (10_state R30). -/
theorem Success.result_eq (h : Success s i t) (hi : writesResult i = false) : t.result = s.result := by
  cases h with
  | modadd | modmul | fmma | reduce | nextRaw | nextUniform => cases hi
  | _ => rfl

/-- A construction command sets SEEDED, every other command keeps it (10_state R25). -/
theorem Success.seeded_eq (h : Success s i t) : t.seeded = (s.seeded || buildsState i) := by
  cases h with
  | nextRaw | nextUniform => simp [buildsState]
  | skip hs => simp [hs]
  | _ => simp [buildsState]

end

end Sys2Proof.Proofs

namespace Sys2Proof.Proofs

open Sys2Proof Sys2Proof.Machine Sys2Proof.Laws

/-! ### The invariants, at rest and in a step -/

/-- The part of the invariants that speaks of the configuration, V, CSUM, CURSOR and memory. -/
structure StoreInv (s : State) : Prop where
  cfgLegal : s.cfg.wf
  gen : GenOk s.cfg s.gen
  cursor : s.cursor.toNat ≤ s.cfg.n
  memCanonical : s.mem.wf
  memWithin : s.mem.within s.cfg.memSize

theorem storeInv_of_inv {s : State} (h : EngineInv s) : StoreInv s :=
  ⟨h.cfgLegal, genOk_of_inv h, h.cursorRange, h.memCanonical, h.memWithin⟩

namespace StoreInv

variable {s : State} (h : StoreInv s)
include h

theorem vLength : s.v.length = s.cfg.n := by simpa [State.gen] using h.gen.length

theorem vResidues : ∀ w ∈ s.v, w.toNat ≤ mersBase := fun _ hw => h.gen.elements _ (List.mem_map_of_mem hw)

/-- An engine that has just completed a command, or was just reset, meets the invariants (40_control R92). -/
theorem inv_of_clean (he : s.err = false) (hc : s.errcode = 0) (hl : s.latched = []) (hk : s.kept = []) :
    EngineInv s where
  cfgLegal := h.cfgLegal
  vLength := h.vLength
  vResidues := h.vResidues
  csumResidue := h.gen.checksum
  cursorRange := h.cursor
  memCanonical := h.memCanonical
  memWithin := h.memWithin
  errMatches := by simp [he, hc]
  errcodeRange := by simp [hc]
  busyClean := fun _ => he
  idleClean := fun _ => ⟨hl, hk⟩

theorem inv_completed : EngineInv (completed s) :=
  inv_of_clean ⟨h.cfgLegal, h.gen, h.cursor, h.memCanonical, h.memWithin⟩ rfl rfl rfl rfl

/-- Acceptance clears ERR and ERRCODE (40_control R90). -/
theorem inv_accept (w : Word) : EngineInv (accept w s) :=
  inv_of_clean ⟨h.cfgLegal, h.gen, h.cursor, h.memCanonical, h.memWithin⟩ rfl rfl rfl rfl

omit h in
/-- Every cause has a code from 1 to 11 (60_exceptions R220). -/
theorem code_range (e : ErrCause) : e.code ≠ 0 ∧ e.code.toNat ≤ 11 := by cases e <;> decide

/-- A failing completion reports a cause of 60_exceptions R220. -/
theorem inv_failed (e : ErrCause) : EngineInv (failed e s) where
  cfgLegal := h.cfgLegal
  vLength := h.vLength
  vResidues := h.vResidues
  csumResidue := h.gen.checksum
  cursorRange := h.cursor
  memCanonical := h.memCanonical
  memWithin := h.memWithin
  errMatches := iff_of_true rfl (code_range e).1
  errcodeRange := (code_range e).2
  busyClean := fun hb => by cases hb
  idleClean := fun _ => ⟨rfl, rfl⟩

end StoreInv

/-- The invariants do not speak of SEEDED, NSKIP, the arguments, RESULT, WERR and the model's host side. -/
theorem inv_of_other_fields {s : State} (h : EngineInv s) {seeded werr : Bool} {nskip : BitVec 32}
    {arg0 arg1 arg2 arg3 result : Word} {host : List HostEvent} {observed : List Word} {draws : Nat} :
    EngineInv { s with seeded := seeded, nskip := nskip, arg0 := arg0, arg1 := arg1, arg2 := arg2, arg3 := arg3,
                       result := result, werr := werr, host := host, observed := observed, draws := draws } :=
  ⟨h.cfgLegal, h.vLength, h.vResidues, h.csumResidue, h.cursorRange, h.memCanonical, h.memWithin, h.errMatches,
    h.errcodeRange, h.busyClean, h.idleClean⟩

/-- The state after reset of a legal configuration meets the invariants (10_state R40). -/
theorem resetWith_inv {c : Config} (hc : c.wf) : EngineInv (State.resetWith c) := by
  have hmem := reset_memory_wf c c.memSize
  refine StoreInv.inv_of_clean ⟨hc, ⟨?_, ?_, Nat.zero_le _⟩, Nat.zero_le _, hmem.1, hmem.2⟩ rfl rfl rfl rfl
  · simp [State.gen, State.resetWith]
  · intro x hx
    obtain ⟨w, hw, rfl⟩ := List.mem_map.1 hx
    rw [List.eq_of_mem_replicate hw]
    exact Nat.zero_le _

/-! ### The words a running command writes stay in the window -/

section

variable {s : State}

theorem wordsAt_within {a size : Nat} {ws : List Word} (h : ws ≠ [] → a + 8 * ws.length ≤ size) :
    ∀ c ∈ wordsAt a ws, c.1 + 8 ≤ size := by
  intro c hc
  obtain ⟨k, hk, h1, -⟩ := mem_wordsAt hc
  have := h (List.ne_nil_of_length_pos (by omega))
  omega

/-- The range FILL_UNIFORM checks holds all its words (43_extraction R143, 20_memory R55). -/
theorem fillWords_within (h : EngineInv s) (ha : s.fillAddressOk) (hne : s.fillWords ≠ []) :
    s.arg1.toNat + 8 * s.fillWords.length ≤ s.cfg.memSize := by
  rw [fillWords_length h.cfgLegal (genOk_of_inv h)]
  refine ha.elim (fun h0 => ?_) (·.2)
  exact absurd (List.eq_nil_of_length_eq_zero ((fillWords_length h.cfgLegal (genOk_of_inv h)).trans h0)) hne

/-- The range EXPORT checks holds all its words (46_transfer R201, 20_memory R55). -/
theorem exportWords_within (h : EngineInv s) (ha : addressOk s.cfg s.arg0.toNat (recordWords s.cfg)) :
    s.arg0.toNat + 8 * s.exportWords.length ≤ s.cfg.memSize := by
  have hl : s.exportWords.length = recordWords s.cfg := by simp [State.exportWords, recordWords, h.vLength]
  rw [hl]
  exact ha.2

theorem fillPlan_within (h : EngineInv s) : ∀ c ∈ s.fillPlan, c.1 + 8 ≤ s.cfg.memSize := by
  unfold State.fillPlan
  split
  · next hp => exact wordsAt_within (fillWords_within h hp.2.2)
  · exact List.forall_mem_nil _

theorem exportPlan_within (h : EngineInv s) : ∀ c ∈ s.exportPlan, c.1 + 8 ≤ s.cfg.memSize := by
  unfold State.exportPlan
  split
  · next hp => exact wordsAt_within fun _ => exportWords_within h hp.2
  · exact List.forall_mem_nil _

theorem writesInFlight_within (h : EngineInv s) : ∀ c ∈ s.writesInFlight, c.1 + 8 ≤ s.cfg.memSize := by
  unfold State.writesInFlight
  split
  · exact fillPlan_within h
  · exact exportPlan_within h
  · exact List.forall_mem_nil _

/-- An idle engine races with nothing (20_memory R60). -/
theorem inFlight_of_idle (h : s.busy = false) : s.writesInFlight = [] ∧ s.readsInFlight = [] := by
  have hr := (busy_eq_false_iff s).1 h
  simp [State.writesInFlight, State.readsInFlight, hr]

end

theorem raceLatch_nil (m : Memory) (ts : List Nat) (l : List (Nat × Word)) (k : Nat) :
    raceLatch m [] ts l k = (l, k) := by
  induction ts with
  | nil => rfl
  | cons t ts ih => simp [raceLatch, ih]

theorem raceKeep_nil (ts : List Nat) (l : List Nat) (k : Nat) : raceKeep [] ts l k = (l, k) := by
  induction ts with
  | nil => rfl
  | cons t ts ih => simp [raceKeep, ih]

/-! ### Every step keeps the invariants -/

section

variable {s t : State}

/-- A successful command keeps memory canonical and inside the window (20_memory R50, R55). -/
theorem Success.mem_inv {i : Instr} (h : EngineInv s) (ht : Success s i t) :
    t.mem.wf ∧ t.mem.within s.cfg.memSize := by
  cases hi : writesMemory i with
  | false => rw [ht.mem_eq hi]; exact ⟨h.memCanonical, h.memWithin⟩
  | true =>
    cases ht with
    | fillUniform _ ha =>
      exact ⟨(portWrites_spec s h.memCanonical _ _).1, portWrites_within s h.memWithin _ (fillWords_within h ha)⟩
    | exportState _ ha =>
      exact ⟨(portWrites_spec s h.memCanonical _ _).1,
        portWrites_within s h.memWithin _ fun _ => exportWords_within h ha⟩
    | _ => cases hi

theorem Success.cfg_eq {i : Instr} (h : Success s i t) : t.cfg = s.cfg := h.updates.completed_frame.cfg

theorem exec_inv {i : Instr} (h : EngineInv s) (he : exec i s = .next t) : EngineInv t := by
  rcases exec_success_or_failed he with ⟨u, hu, rfl⟩ | ⟨e, rfl⟩
  · obtain ⟨g, hg⟩ := success_leaves h hu
    have hcfg := hu.cfg_eq
    have hmem := hu.mem_inv h
    refine StoreInv.inv_completed ⟨hcfg ▸ h.cfgLegal, ?_, hcfg ▸ hg.cursor, hmem.1, hcfg ▸ hmem.2⟩
    rw [gen_of_stored hg.ok hg.v hg.csum, hcfg]
    exact hg.ok
  · exact (storeInv_of_inv h).inv_failed e

theorem engineTurn_inv (h : EngineInv s) (ht : engineTurn s = .next t) : EngineInv t := by
  rcases engineTurn_next ht with ⟨-, rfl⟩ | ⟨w, i, -, -, he⟩ | ⟨w, e, -, -, rfl⟩
  · exact h
  · exact exec_inv h he
  · exact (storeInv_of_inv h).inv_failed _

/-- What a register write can do: it accepts a command, or changes NSKIP, the arguments and WERR at most (10_state R26
to R35, 40_control R90). -/
theorem writeReg_accepts_or_sets (s : State) (x : Word) (r : HostReg) :
    s.writeReg x r = accept x s ∨ ∃ nskip arg0 arg1 arg2 arg3 werr, s.writeReg x r =
      { s with nskip := nskip, arg0 := arg0, arg1 := arg1, arg2 := arg2, arg3 := arg3, werr := werr } := by
  cases r with
  | config | result | specialC | reserved => exact .inr ⟨_, _, _, _, _, _, rfl⟩
  | cmd =>
    simp only [State.writeReg]
    split
    · exact .inr ⟨_, _, _, _, _, _, rfl⟩
    · exact .inl rfl
  | status | nskip | arg0 | arg1 | arg2 | arg3 =>
    simp only [State.writeReg]
    split
    · exact .inr ⟨_, _, _, _, _, _, rfl⟩
    · exact .inr ⟨_, _, _, _, _, _, rfl⟩

theorem writeReg_inv (h : EngineInv s) (x : Word) (r : HostReg) : EngineInv (s.writeReg x r) := by
  rcases writeReg_accepts_or_sets s x r with hw | ⟨_, _, _, _, _, _, hw⟩
  · exact hw ▸ (storeInv_of_inv h).inv_accept x
  · exact hw ▸ inv_of_other_fields h

/-- A host memory write touches the window's own bytes, and no race record while the engine is idle (20_memory R60). -/
theorem hostMemWrite_inv {a x : Word} (h : EngineInv s) (ht : hostMemWrite a x s = .next t) : EngineInv t := by
  unfold hostMemWrite at ht
  split at ht
  · obtain rfl : s = t := by simpa using ht
    exact h
  · next ha =>
    have hbytes : a.toNat + bytesInside s.cfg a ≤ s.cfg.memSize := by unfold bytesInside; omega
    cases ht
    refine ⟨h.cfgLegal, h.vLength, h.vResidues, h.csumResidue, h.cursorRange, writeBytes_wf h.memCanonical _ _ _,
      writeBytes_within h.memWithin hbytes _, h.errMatches, h.errcodeRange, h.busyClean, fun hidle => ?_⟩
    have hb : s.busy = false := hidle
    obtain ⟨hw, hr⟩ := inFlight_of_idle hb
    simpa only [hw, hr, raceLatch_nil, raceKeep_nil] using h.idleClean hb

theorem hostMemRead_inv {a : Word} (h : EngineInv s) (ht : hostMemRead a s = .next t) : EngineInv t := by
  rcases hostMemRead_next ht with ⟨-, rfl⟩ | ⟨-, rfl⟩
  · exact inv_of_other_fields h
  · exact h

theorem hardReset_inv (h : EngineInv s) : EngineInv (hardReset s) := by
  have hreset := storeInv_of_inv (resetWith_inv h.cfgLegal)
  exact StoreInv.inv_of_clean ⟨h.cfgLegal, hreset.gen, hreset.cursor, raceReset_wf h.memCanonical _ _,
    raceReset_within h.memWithin _ _ (writesInFlight_within h)⟩ rfl rfl rfl rfl

theorem hostTurn_inv {ev : HostEvent} (h : EngineInv s) (ht : hostTurn ev s = .next t) : EngineInv t := by
  cases ev with
  | regWrite width offset x =>
    obtain ⟨-, rfl⟩ := hostRegWrite_next.1 ht
    exact writeReg_inv h x _
  | regRead width offset =>
    obtain ⟨-, rfl⟩ := hostRegRead_next.1 ht
    exact inv_of_other_fields h
  | memWrite a x => exact hostMemWrite_inv h ht
  | memRead a => exact hostMemRead_inv h ht
  | reset =>
    obtain rfl : hardReset s = t := by simpa [hostTurn] using ht
    exact hardReset_inv h
  | engineTurn => exact engineTurn_inv h ht

end

/-- Settles O50: the invariants hold after the engine's turn and after every host event. -/
theorem stepKeepsInvariants : Obligations.StepKeepsInvariants := by
  intro s t h hstep
  obtain ⟨-, ⟨-, hturn⟩ | ⟨ev, rest, -, hturn⟩⟩ := step_next hstep
  · exact engineTurn_inv h hturn
  · exact hostTurn_inv (inv_of_other_fields h) hturn

end Sys2Proof.Proofs

namespace Sys2Proof.Proofs

open Sys2Proof Sys2Proof.Machine Sys2Proof.Laws

/-! ### What a step can do to the engine's own registers -/

/-- The configuration and the registers that only commands and reset write are as they were. -/
structure Untouched (s t : State) : Prop where
  cfg : t.cfg = s.cfg
  v : t.v = s.v
  csum : t.csum = s.csum
  cursor : t.cursor = s.cursor
  seeded : t.seeded = s.seeded
  result : t.result = s.result

section

variable {s t : State}

theorem failed_untouched (e : ErrCause) (s : State) : Untouched s (failed e s) := ⟨rfl, rfl, rfl, rfl, rfl, rfl⟩

theorem writeReg_untouched (s : State) (x : Word) (r : HostReg) : Untouched s (s.writeReg x r) := by
  rcases writeReg_accepts_or_sets s x r with hw | ⟨_, _, _, _, _, _, hw⟩
  · exact hw ▸ ⟨rfl, rfl, rfl, rfl, rfl, rfl⟩
  · exact hw ▸ ⟨rfl, rfl, rfl, rfl, rfl, rfl⟩

theorem hostMemRead_untouched {a : Word} (h : hostMemRead a s = .next t) : Untouched s t := by
  rcases hostMemRead_next h with ⟨-, rfl⟩ | ⟨-, rfl⟩
  · exact ⟨rfl, rfl, rfl, rfl, rfl, rfl⟩
  · exact ⟨rfl, rfl, rfl, rfl, rfl, rfl⟩

theorem hostMemWrite_untouched {a x : Word} (h : hostMemWrite a x s = .next t) : Untouched s t := by
  rcases hostMemWrite_next h with ⟨-, rfl⟩ | ⟨-, _, _, _, rfl⟩
  · exact ⟨rfl, rfl, rfl, rfl, rfl, rfl⟩
  · exact ⟨rfl, rfl, rfl, rfl, rfl, rfl⟩

/-- The engine's turn runs the latched command or touches none of these registers. -/
theorem engineTurn_untouched_or_runs (h : engineTurn s = .next t) :
    Untouched s t ∨ ∃ w i, s.running = some w ∧ decode w = .ok i ∧ exec i s = .next t := by
  rcases engineTurn_next h with ⟨-, rfl⟩ | hrun | ⟨_, _, -, -, rfl⟩
  · exact .inl ⟨rfl, rfl, rfl, rfl, rfl, rfl⟩
  · exact .inr hrun
  · exact .inl (failed_untouched _ s)

/-- A step leaves these registers alone, or is a reset, or runs the latched command. -/
theorem step_untouched_or_resets_or_runs (h : step s = .next t) :
    Untouched s t ∨ (∃ rest, s.host = .reset :: rest ∧ t = hardReset { s with host := rest }) ∨
      ∃ w i evs, s.running = some w ∧ decode w = .ok i ∧ exec i { s with host := evs } = .next t := by
  obtain ⟨-, ⟨-, hturn⟩ | ⟨ev, rest, hev, hturn⟩⟩ := step_next h
  · exact (engineTurn_untouched_or_runs hturn).imp id fun ⟨w, i, hr, hd, he⟩ => .inr ⟨w, i, s.host, hr, hd, he⟩
  · have keep : Untouched { s with host := rest } t → Untouched s t := fun ⟨h1, h2, h3, h4, h5, h6⟩ =>
      ⟨h1, h2, h3, h4, h5, h6⟩
    cases ev with
    | regWrite width offset x =>
      obtain ⟨-, rfl⟩ := hostRegWrite_next.1 hturn
      exact .inl (keep (writeReg_untouched _ _ _))
    | regRead width offset =>
      obtain ⟨-, rfl⟩ := hostRegRead_next.1 hturn
      exact .inl ⟨rfl, rfl, rfl, rfl, rfl, rfl⟩
    | memWrite a x => exact .inl (keep (hostMemWrite_untouched hturn))
    | memRead a => exact .inl (keep (hostMemRead_untouched hturn))
    | reset => exact .inr (.inl ⟨rest, hev, by simpa [hostTurn] using hturn.symm⟩)
    | engineTurn =>
      exact (engineTurn_untouched_or_runs hturn).imp keep fun ⟨w, i, hr, hd, he⟩ => .inr ⟨w, i, rest, hr, hd, he⟩

/-- The configuration is fixed for the lifetime of a build (00_scope R5, 10_state R20). -/
theorem step_cfg (h : step s = .next t) : t.cfg = s.cfg := by
  rcases step_untouched_or_resets_or_runs h with hu | ⟨rest, -, rfl⟩ | ⟨w, i, evs, -, -, he⟩
  · exact hu.cfg
  · rfl
  · exact (exec_frame he).cfg

/-! ### The checksum conventions -/

/-- V and CSUM are determined by the generator they hold. -/
theorem stored_eq_of_gen_eq (h : t.gen = s.gen) : t.v = s.v ∧ t.csum = s.csum := by
  have hv := congrArg (fun g => storedV g.v) h
  have hs : t.csum.toNat = s.csum.toNat := congrArg Gen.cs h
  exact ⟨by simpa using hv, BitVec.eq_of_toNat_eq hs⟩

/-- What a successful command leaves is the generator of the state after it. -/
theorem exec_leaves {i : Instr} (h : EngineInv s) (he : exec i s = .next t) (hok : t.err = false) :
    Leaves s i t t.gen := by
  obtain ⟨u, hu, rfl⟩ := exec_success he hok
  obtain ⟨g, hg⟩ := success_leaves h hu
  have hgen : (completed u).gen = g := gen_of_stored hg.ok hg.v hg.csum
  rw [hgen]
  exact ⟨hg.ok, hg.v, hg.csum, hg.cursor, hg.checksum⟩

theorem csumIsExcl0_of_leaves (hc : t.cfg = s.cfg) (h : GenExcl0 s.cfg t.gen) : csumIsExcl0 t := by
  rw [csumIsExcl0, hc]
  exact h

/-- The checksum SEED_LINEAR leaves follows the configured convention (44_seeding R164). -/
theorem csum_of_leaves_linear (hc : t.cfg = s.cfg) (h : t.gen.cs = linearCsum s.cfg t.gen.v) :
    (s.cfg.slCsum = .full → csumIsFull t) ∧ (s.cfg.slCsum = .excl0 → csumIsExcl0 t) := by
  unfold linearCsum at h
  refine ⟨fun hm => ?_, fun hm => ?_⟩
  · rw [hm] at h
    rw [csumIsFull, hc]
    exact h
  · rw [hm] at h
    rw [csumIsExcl0, hc]
    exact h

/-- A command leaves an EXCL0 checksum, or is SEED_LINEAR, or writes no generator and constructs none. -/
theorem leavesChecksum_cases {g : Gen} {i : Instr} (h : LeavesChecksum s g i) :
    GenExcl0 s.cfg g ∨ g.cs = linearCsum s.cfg g.v ∨ (g = s.gen ∧ buildsState i = false) := by
  cases i with
  | iterate | seedBasis | seedStream | skip | importState | loadv | recomputeCsum => exact .inl h
  | seedLinear => exact .inr (.inl h)
  | nop | modadd | modmul | fmma | reduce | exportState => exact .inr (.inr ⟨h, rfl⟩)
  | nextRaw | nextUniform | iterateN | fillUniform =>
    simp only [LeavesChecksum] at h
    split at h
    · exact .inr (.inr ⟨h, rfl⟩)
    · exact .inl h

/-- The convention speaks of the configuration, V, CSUM and SEEDED only. -/
theorem csumConvention_congr (h : csumConvention s) (hc : t.cfg = s.cfg) (hv : t.v = s.v) (hs : t.csum = s.csum)
    (hd : t.seeded = true → s.seeded = true) : csumConvention t := by
  intro ht
  have := h (hd ht)
  simpa only [csumIsExcl0, csumIsFull, State.gen, hc, hv, hs] using this

theorem exec_keeps_csumConvention {i : Instr} (h : EngineInv s) (hconv : csumConvention s)
    (he : exec i s = .next t) : csumConvention t := by
  have hc := (exec_frame he).cfg
  rcases exec_success_or_failed he with ⟨u, hu, rfl⟩ | ⟨e, rfl⟩
  · rcases leavesChecksum_cases (exec_leaves h he rfl).checksum with hex | hlin | ⟨hsame, hb⟩
    · exact fun _ => .inl (csumIsExcl0_of_leaves hc hex)
    · obtain ⟨hfull, hexcl⟩ := csum_of_leaves_linear hc hlin
      intro _
      cases hm : s.cfg.slCsum with
      | full => exact .inr ⟨hc ▸ hm, hfull hm⟩
      | excl0 => exact .inl (hexcl hm)
    · obtain ⟨hv, hs⟩ := stored_eq_of_gen_eq hsame
      exact csumConvention_congr hconv hc hv hs fun hd => by
        simpa [hb] using hu.seeded_eq.symm.trans hd
  · exact csumConvention_congr hconv rfl rfl rfl id

end

/-- Settles O51: a step leaves the generator alone, is a reset, or runs one command. -/
theorem stepKeepsChecksumConvention : Obligations.StepKeepsChecksumConvention := by
  intro s t h hconv hstep
  rcases step_untouched_or_resets_or_runs hstep with hu | ⟨rest, -, rfl⟩ | ⟨w, i, evs, -, -, he⟩
  · exact csumConvention_congr hconv hu.cfg hu.v hu.csum fun hd => hu.seeded ▸ hd
  · exact fun hd => absurd hd (by simp)
  · have hinv : EngineInv { s with host := evs } := inv_of_other_fields h
    exact exec_keeps_csumConvention hinv hconv he

/-- Settles O52: by the checksum each command leaves (`LeavesChecksum`), read off for each call site. -/
theorem checksumPerCallSite : Obligations.ChecksumPerCallSite := by
  intro s t h
  have excl0 {i : Instr} (he : exec i s = .next t) (hg : GenExcl0 s.cfg t.gen) : csumIsExcl0 t :=
    csumIsExcl0_of_leaves (exec_frame he).cfg hg
  refine ⟨?_, fun he hok => ?_, fun he hok => ?_, ?_, ?_, ?_⟩
  · intro i hi he hok
    have hl : LeavesChecksum s t.gen i = GenExcl0 s.cfg t.gen := by
      revert i
      simp [LeavesChecksum]
    exact excl0 he (hl ▸ (exec_leaves h he hok).checksum)
  · exact (csum_of_leaves_linear (exec_frame he).cfg (exec_leaves h he hok).checksum).1
  · exact (csum_of_leaves_linear (exec_frame he).cfg (exec_leaves h he hok).checksum).2
  · intro i hi he hok
    have hl : LeavesChecksum s t.gen i = if s.cursor.toNat < s.cfg.n then t.gen = s.gen else GenExcl0 s.cfg t.gen := by
      revert i
      simp [LeavesChecksum]
    have hg := hl ▸ (exec_leaves h he hok).checksum
    split at hg
    · next hlt => rw [if_pos hlt]; exact stored_eq_of_gen_eq hg
    · next hlt => rw [if_neg hlt]; exact excl0 he hg
  · intro i hi he hok
    have hl : LeavesChecksum s t.gen i = if s.arg0 = 0 then t.gen = s.gen else GenExcl0 s.cfg t.gen := by
      revert i
      simp [LeavesChecksum]
    have hg := hl ▸ (exec_leaves h he hok).checksum
    split at hg
    · next h0 => rw [if_pos h0]; exact stored_eq_of_gen_eq hg
    · next h0 => rw [if_neg h0]; exact excl0 he hg
  · intro i hi he
    rcases exec_success_or_failed he with ⟨u, -, rfl⟩ | ⟨e, rfl⟩
    · have hl : LeavesChecksum s (completed u).gen i = ((completed u).gen = s.gen) := by
        revert i
        simp [LeavesChecksum]
      exact stored_eq_of_gen_eq (hl ▸ (exec_leaves h he rfl).checksum)
    · exact ⟨rfl, rfl⟩

/-- Settles O49: the reset state meets the invariants, and is not seeded. -/
theorem invariantsHoldAtReset : Obligations.InvariantsHoldAtReset :=
  ⟨fun _ hc => ⟨resetWith_inv hc, fun hd => by cases hd⟩, resetWith_inv (by decide)⟩

/-! ### Frames: the configuration, memory, RESULT and SEEDED -/

/-- Settles O11: a command's frame and, for all commands but two, its memory. -/
theorem commandFrame : Obligations.CommandFrame := by
  refine ⟨fun i s t he => ?_, fun s t h => step_cfg h⟩
  obtain ⟨hcfg, hnskip, h0, h1, h2, h3, hwerr, -, -, -⟩ := exec_frame he
  refine ⟨hcfg, hnskip, h0, h1, h2, h3, hwerr, fun hi => ?_⟩
  rcases exec_success_or_failed he with ⟨u, hu, rfl⟩ | ⟨e, rfl⟩
  · exact hu.mem_eq hi
  · rfl

/-- Settles O12: a step that touches RESULT resets or runs a command, and a failing or other command keeps RESULT. -/
theorem resultWrittenOnlyByScalarCommands : Obligations.ResultWrittenOnlyByScalarCommands := by
  refine ⟨fun s t h hne => ?_, fun _ _ => rfl, fun _ => rfl⟩
  rcases step_untouched_or_resets_or_runs h with hu | ⟨rest, hr, -⟩ | ⟨w, i, evs, hrun, hdec, he⟩
  · exact absurd hu.result hne
  · exact .inl ⟨rest, hr⟩
  · rcases exec_success_or_failed he with ⟨u, hu, rfl⟩ | ⟨e, rfl⟩
    · refine .inr ⟨w, i, hrun, hdec, ?_, rfl, rfl⟩
      exact Bool.eq_true_of_not_eq_false fun hi => hne (hu.result_eq hi)
    · exact absurd rfl hne

/-- Settles O53: SEEDED changes by a construction command that succeeds, or by reset. -/
theorem seededOnlyByConstruction : Obligations.SeededOnlyByConstruction := by
  intro s t h
  rcases step_untouched_or_resets_or_runs h with hu | ⟨rest, hr, rfl⟩ | ⟨w, i, evs, hrun, hdec, he⟩
  · rw [hu.seeded]
    exact ⟨fun h0 h1 => absurd (h0.symm.trans h1) (by decide), fun h1 h0 => absurd (h1.symm.trans h0) (by decide)⟩
  · exact ⟨fun _ h1 => absurd h1 (by simp), fun _ _ => ⟨rest, hr⟩⟩
  · rcases exec_success_or_failed he with ⟨u, hu, rfl⟩ | ⟨e, rfl⟩
    · have hset : (completed u).seeded = (s.seeded || buildsState i) := hu.seeded_eq
      rw [hset]
      exact ⟨fun h0 h1 => ⟨w, i, hrun, hdec, by simpa [h0] using h1, rfl, rfl⟩,
        fun h1 h0 => absurd h0 (by simp [h1])⟩
    · exact ⟨fun h0 h1 => absurd (h0.symm.trans h1) (by decide), fun h1 h0 => absurd (h1.symm.trans h0) (by decide)⟩

end Sys2Proof.Proofs

namespace Sys2Proof.Proofs

open Sys2Proof Sys2Proof.Machine Sys2Proof.Laws

/-! ### While SEEDED = 0 the values of V, CSUM and CURSOR decide nothing (10_state R25) -/

section

variable (v : List Word) (csum : Word) (cursor : BitVec 16)

/-- The state with other values of V, CSUM and CURSOR. -/
def withOther (s : State) : State := { s with v := v, csum := csum, cursor := cursor }

/-- Two outcomes that do not tell the values of V, CSUM and CURSOR apart: the same, or unseeded next states that differ
only there. -/
inductive Alike : Result → Result → Prop
  | same (r : Result) : Alike r r
  | hidden {t : State} (h : t.seeded = false) : Alike (.next t) (.next (withOther v csum cursor t))

variable {v csum cursor}

theorem alike_ite {p : Prop} [Decidable p] {a b a' b' : Result} (ha : Alike v csum cursor a a')
    (hb : Alike v csum cursor b b') : Alike v csum cursor (if p then a else b) (if p then a' else b') := by
  split
  · exact ha
  · exact hb

variable {s : State}

theorem raise_alike (h : s.seeded = false) (e : ErrCause) :
    Alike v csum cursor (raise e s) (raise e (withOther v csum cursor s)) := .hidden (t := failed e s) h

theorem succeed_result_alike (h : s.seeded = false) (r : Word) :
    Alike v csum cursor (succeed { s with result := r })
      (succeed { withOther v csum cursor s with result := r }) :=
  .hidden (t := completed { s with result := r }) h

/-- A command that reads V, CSUM or CURSOR fails while SEEDED = 0 (60_exceptions R220, code 11). -/
theorem exec_of_unseeded {i : Instr} (hi : needsSeed i = true) (h : s.seeded = false) :
    exec i s = raise .notSeeded s := by
  have hn : ¬ s.seeded = true := by simp [h]
  cases i with
  | iterate | iterateN | nextRaw | nextUniform | fillUniform | recomputeCsum | skip | exportState => exact if_neg hn
  | _ => cases hi

/-- The memory port does not depend on V, CSUM and CURSOR (20_memory R51). -/
theorem portReads_withOther (a k : Nat) : (withOther v csum cursor s).portReads a k = s.portReads a k := by
  induction k generalizing a with
  | zero => rfl
  | succ k ih => exact congrArg (s.portRead a :: ·) (ih (a + 8))

theorem importWords_withOther : (withOther v csum cursor s).importWords = s.importWords :=
  congrArg (List.map BitVec.toNat) (portReads_withOther _ _)

theorem loadWords_withOther : (withOther v csum cursor s).loadWords = s.loadWords :=
  congrArg (List.map BitVec.toNat) (portReads_withOther _ _)

/-- A construction command overwrites V, CSUM and CURSOR. -/
theorem install_withOther (g : Gen) : (withOther v csum cursor s).install g = s.install g := rfl

theorem execSeedStream_alike (h : s.seeded = false) (reqt : Bool) :
    Alike v csum cursor (execSeedStream reqt s) (execSeedStream reqt (withOther v csum cursor s)) := by
  have hcfg : (withOther v csum cursor s).cfg = s.cfg := rfl
  refine alike_ite ?_ (raise_alike h _)
  simp only [hcfg, install_withOther]
  cases s.cfg.table with
  | none => exact alike_ite (raise_alike h _) (.same _)
  | some t => exact .same _

theorem execImport_alike (h : s.seeded = false) :
    Alike v csum cursor (execImport s) (execImport (withOther v csum cursor s)) := by
  simp only [execImport, importWords_withOther, install_withOther]
  exact alike_ite (alike_ite (alike_ite (alike_ite (alike_ite (.same _) (raise_alike h _)) (raise_alike h _))
    (raise_alike h _)) (raise_alike h _)) (raise_alike h _)

theorem execLoadv_alike (h : s.seeded = false) :
    Alike v csum cursor (execLoadv s) (execLoadv (withOther v csum cursor s)) := by
  simp only [execLoadv, loadWords_withOther, install_withOther]
  exact alike_ite (alike_ite (.same _) (raise_alike h _)) (raise_alike h _)

theorem exec_alike (h : s.seeded = false) (i : Instr) :
    Alike v csum cursor (exec i s) (exec i (withOther v csum cursor s)) := by
  cases hi : needsSeed i with
  | true =>
    rw [exec_of_unseeded hi h, exec_of_unseeded (s := withOther v csum cursor s) hi h]
    exact raise_alike h _
  | false =>
    cases i with
    | nop => exact .hidden (t := completed s) h
    | modadd | modmul | fmma | reduce => exact alike_ite (succeed_result_alike h _) (raise_alike h _)
    | seedBasis => exact alike_ite (.same _) (raise_alike h _)
    | seedLinear => exact alike_ite (raise_alike h _) (.same _)
    | seedStream reqt => exact execSeedStream_alike h reqt
    | importState => exact execImport_alike h
    | loadv => exact execLoadv_alike h
    | _ => cases hi

theorem engineTurn_alike (h : s.seeded = false) :
    Alike v csum cursor (engineTurn s) (engineTurn (withOther v csum cursor s)) := by
  have hrun : (withOther v csum cursor s).running = s.running := rfl
  unfold engineTurn
  rw [hrun]
  cases s.running with
  | none => exact .hidden h
  | some w =>
    cases hdec : decode w with
    | ok i => simpa only [hdec] using exec_alike h i
    | error e => simpa only [hdec] using raise_alike h _

/-- An unseeded engine's command writes no memory (20_memory R51, 60_exceptions R220). -/
theorem writesInFlight_of_unseeded (h : s.seeded = false) : s.writesInFlight = [] := by
  unfold State.writesInFlight
  split
  · simp [State.fillPlan, h]
  · simp [State.exportPlan, h]
  · rfl

theorem writeReg_withOther (x : Word) (r : HostReg) :
    (withOther v csum cursor s).writeReg x r = withOther v csum cursor (s.writeReg x r) := by
  have hbusy : (withOther v csum cursor s).busy = s.busy := rfl
  cases r with
  | config | result | specialC | reserved => rfl
  | cmd | status | nskip | arg0 | arg1 | arg2 | arg3 =>
    simp only [State.writeReg, hbusy]
    split
    · rfl
    · rfl

theorem readReg_withOther (r : HostReg) : (withOther v csum cursor s).readReg r = s.readReg r := by
  cases r <;> rfl

theorem hostTurn_alike (h : s.seeded = false) (ev : HostEvent) :
    Alike v csum cursor (hostTurn ev s) (hostTurn ev (withOther v csum cursor s)) := by
  have hw := writesInFlight_of_unseeded h
  have hw' := writesInFlight_of_unseeded (s := withOther v csum cursor s) h
  have hr : (withOther v csum cursor s).readsInFlight = s.readsInFlight := rfl
  cases ev with
  | regWrite width offset x =>
    simp only [hostTurn, hostRegWrite, writeReg_withOther]
    exact alike_ite (.hidden ((writeReg_untouched s x _).seeded.trans h)) (.same _)
  | regRead width offset =>
    simp only [hostTurn, hostRegRead, readReg_withOther]
    exact alike_ite (.hidden (t := s.observe _) h) (.same _)
  | memWrite a x =>
    simp only [hostTurn, hostMemWrite, hw, hw', hr]
    exact alike_ite (.hidden h) (.hidden h)
  | memRead a =>
    simp only [hostTurn, hostMemRead, hw, hw']
    exact alike_ite (.hidden h) (.hidden h)
  | reset =>
    simp only [hostTurn, hardReset, hw, hw']
    exact .same _
  | engineTurn => exact engineTurn_alike h

theorem step_alike (h : s.seeded = false) : Alike v csum cursor (step s) (step (withOther v csum cursor s)) := by
  have hhost : (withOther v csum cursor s).host = s.host := rfl
  refine alike_ite (alike_ite ?_ (.same _)) (.same _)
  rw [hhost]
  cases s.host with
  | nil => exact engineTurn_alike h
  | cons ev rest => exact hostTurn_alike (s := { s with host := rest }) h ev

end

/-- Settles O54: the two steps are alike. -/
theorem unseededStateIsInvisible : Obligations.UnseededStateIsInvisible := by
  intro s v csum cursor h
  have halike : Alike v csum cursor (step s) (step { s with v := v, csum := csum, cursor := cursor }) := step_alike h
  generalize step s = r at halike
  generalize step { s with v := v, csum := csum, cursor := cursor } = r' at halike
  cases halike with
  | same => exact ⟨fun t ht => ⟨t, ht, .inl rfl⟩, fun _ hr => hr⟩
  | hidden ht =>
    refine ⟨?_, fun _ hr => by cases hr⟩
    rintro t ⟨⟩
    exact ⟨_, rfl, .inr ⟨ht, rfl⟩⟩

end Sys2Proof.Proofs

namespace Sys2Proof.Proofs

open Sys2Proof Sys2Proof.Machine Sys2Proof.Laws

/-! ### Register accesses (10_state R26 to R35) -/

section

variable {s : State} {offset : BitVec 8} {x : Word} {rest : List HostEvent}

/-- The step of a legal register write. -/
theorem step_regWrite (hr : runnable s.cfg) (hs : s.host = .regWrite 64 offset x :: rest)
    (ha : offset.toNat % 8 = 0) : step s = .next (State.writeReg { s with host := rest } x (regAt offset)) := by
  rw [step_of_runnable hr, hs]
  exact if_pos ⟨rfl, ha⟩

/-- The step of a legal register read. -/
theorem step_regRead (hr : runnable s.cfg) (hs : s.host = .regRead 64 offset :: rest) (ha : offset.toNat % 8 = 0) :
    step s = .next { s with host := rest, observed := s.readReg (regAt offset) :: s.observed } := by
  have hread : State.readReg { s with host := rest } (regAt offset) = s.readReg (regAt offset) := by
    cases regAt offset <;> rfl
  rw [step_of_runnable hr, hs, ← hread]
  exact if_pos ⟨rfl, ha⟩

/-- Offsets from 0x50 on are reserved (10_state R33). -/
theorem regAt_of_ge (h : 0x50 ≤ offset.toNat) : regAt offset = .reserved := by
  unfold regAt
  split
  case h_11 => rfl
  all_goals omega

/-- A write to CMD, NSKIP or an argument while BUSY = 1 is dropped (10_state R35). -/
theorem writeReg_of_busy {r : HostReg} (hr : r ∈ [HostReg.cmd, .nskip, .arg0, .arg1, .arg2, .arg3])
    (hb : s.busy = true) : s.writeReg x r = dropWrite s := by
  cases r with
  | cmd | nskip | arg0 | arg1 | arg2 | arg3 => exact if_pos hb
  | _ => simp at hr

/-- A write to a read-only register or a reserved slot changes nothing (10_state R34). -/
theorem writeReg_of_readOnly {r : HostReg} (hr : r ∈ [HostReg.config, .result, .specialC, .reserved]) :
    s.writeReg x r = s := by
  cases r with
  | config | result | specialC | reserved => rfl
  | _ => simp at hr

end

/-- Settles O6: each of the six offsets names a register whose writes BUSY drops. -/
theorem busyWritesAreDropped : Obligations.BusyWritesAreDropped := by
  intro s offset x rest hr hs hb hoff
  have hreg : ∀ o ∈ ([0x00, 0x18, 0x20, 0x28, 0x30, 0x38] : List (BitVec 8)),
      regAt o ∈ [HostReg.cmd, .nskip, .arg0, .arg1, .arg2, .arg3] ∧ o.toNat % 8 = 0 := by decide
  obtain ⟨hmem, halign⟩ := hreg offset hoff
  exact (step_regWrite hr hs halign).trans (congrArg _ (writeReg_of_busy hmem hb))

/-- Settles O7: the write each register makes of its value. -/
theorem registerWritesTakeEffect : Obligations.RegisterWritesTakeEffect := by
  intro s x rest hr
  have idle {a : State} (hb : s.busy = false) : (if s.busy then dropWrite { s with host := rest } else a) = a :=
    if_neg (by simp [hb])
  have hlow : x.setWidth 32 = BitVec.ofNat 32 (x.toNat % 2 ^ 32) := BitVec.eq_of_toNat_eq (by simp)
  refine ⟨fun hb hs => ?_, fun hb hs => ?_, fun hb hs => ?_, fun hb hs => ?_, fun hb hs => ?_, fun hs hx => ?_,
    fun hs hx => ?_⟩
  · rw [step_regWrite hr hs rfl, ← hlow]
    exact congrArg _ (idle hb)
  · exact (step_regWrite hr hs rfl).trans (congrArg _ (idle hb))
  · exact (step_regWrite hr hs rfl).trans (congrArg _ (idle hb))
  · exact (step_regWrite hr hs rfl).trans (congrArg _ (idle hb))
  · exact (step_regWrite hr hs rfl).trans (congrArg _ (idle hb))
  · exact (step_regWrite hr hs rfl).trans (congrArg _ (if_pos hx))
  · exact (step_regWrite hr hs rfl).trans (congrArg _ (if_neg (by rw [hx]; decide)))

/-- Settles O8: illegal accesses, writes without effect, and reads. -/
theorem registerAccessContract : Obligations.RegisterAccessContract := by
  intro s width offset x rest hr
  refine ⟨fun hbad => ?_, fun hs ha hro => ?_, fun hs ha => ⟨_, step_regRead hr hs ha⟩⟩
  · have hno : ¬ accessOk width offset := fun ⟨hw, ha⟩ => hbad.elim (· hw) (· ha)
    refine ⟨fun hs => ?_, fun hs => ?_⟩
    · rw [step_of_runnable hr, hs]
      exact if_neg hno
    · rw [step_of_runnable hr, hs]
      exact if_neg hno
  · have hfixed : ∀ o ∈ ([0x10, 0x40, 0x48] : List (BitVec 8)),
        regAt o ∈ [HostReg.config, .result, .specialC, .reserved] := by decide
    have hreg : regAt offset ∈ [HostReg.config, .result, .specialC, .reserved] := by
      rcases hro with hro | hge
      · exact hfixed offset hro
      · simp [regAt_of_ge hge]
    rw [step_regWrite hr hs ha, writeReg_of_readOnly hreg]

/-! ### The words of STATUS and CONFIG as sums of their fields (10_state R27, R31) -/

/-- A concatenation as a number. -/
theorem toNat_append_eq {m n : Nat} (a : BitVec m) (b : BitVec n) : (a ++ b).toNat = a.toNat * 2 ^ n + b.toNat := by
  rw [BitVec.toNat_append, ← Nat.shiftLeft_add_eq_or_of_lt b.isLt, Nat.shiftLeft_eq]

theorem toNat_zero_literal (n : Nat) : (0 : BitVec n).toNat = 0 := by simp

theorem statusWord_toNat (s : State) :
    s.statusWord.toNat =
      s.busy.toNat + 2 * s.err.toNat + 4 * s.seeded.toNat + 8 * s.werr.toNat + 2 ^ 8 * s.errcode.toNat := by
  simp only [State.statusWord, toNat_append_eq, BitVec.toNat_ofBool, toNat_zero_literal]
  omega

theorem reduceModeBit_toNat (m : ReduceMode) : (ReduceMode.bit m).toNat = if m = .canonical then 1 else 0 := by cases m <;> rfl

theorem csumModeBit_toNat (m : CsumMode) : (CsumMode.bit m).toNat = if m = .excl0 then 1 else 0 := by cases m <;> rfl

/-- N fits in CONFIG's 16 bits (00_scope R6). -/
theorem configWord_toNat {s : State} (h : s.cfg.wf) :
    s.configWord.toNat = s.cfg.n + 2 ^ 16 * 61 + 2 ^ 24 * s.cfg.table.isSome.toNat +
      2 ^ 25 * s.cfg.specialC.isSome.toNat + 2 ^ 26 * (if s.cfg.pReduce = .canonical then 1 else 0) +
      2 ^ 27 * (if s.cfg.slCsum = .excl0 then 1 else 0) := by
  have hn : s.cfg.n < 2 ^ 16 := Nat.lt_of_le_of_lt h.2.1 (by decide)
  rw [← reduceModeBit_toNat, ← csumModeBit_toNat]
  simp only [State.configWord, toNat_append_eq, BitVec.toNat_ofBool, toNat_zero_literal, BitVec.toNat_ofNat,
    Nat.mod_eq_of_lt hn, mersBits]
  omega

theorem specialWord_toNat (s : State) : s.specialWord.toNat = specialValue s.cfg := by
  unfold State.specialWord specialValue
  cases s.cfg.specialC <;> rfl

/-- Settles O9: the register at each offset and the number its read returns. -/
theorem registerReadValues : Obligations.RegisterReadValues := by
  intro s offset rest hr hs ha
  refine ⟨s.readReg (regAt offset), step_regRead hr hs ha, ?_, ?_, ?_, ?_, ?_, ?_, ?_, ?_, ?_, ?_, fun hge => ?_⟩
  · rintro rfl; rfl
  · rintro rfl; exact statusWord_toNat s
  · rintro rfl; exact configWord_toNat hr.1
  · rintro rfl
    exact BitVec.toNat_setWidth_of_le (by decide)
  · rintro rfl; rfl
  · rintro rfl; rfl
  · rintro rfl; rfl
  · rintro rfl; rfl
  · rintro rfl; rfl
  · rintro rfl; exact specialWord_toNat s
  · rw [regAt_of_ge hge]; rfl

/-- Settles O10: CONFIG is computed from the configuration, which no step changes. -/
theorem configRegister : Obligations.ConfigRegister := by
  refine ⟨fun s h => configWord_toNat h, fun s t h => ?_, by decide⟩
  simp only [State.readReg, State.configWord, step_cfg h]

/-- Settles O55: by the fields of the reset state. -/
theorem resetValues : Obligations.ResetValues :=
  fun c => ⟨rfl, rfl, rfl, rfl, rfl, rfl, rfl, rfl, BitVec.eq_of_toNat_eq (statusWord_toNat (State.resetWith c)), rfl⟩

end Sys2Proof.Proofs

namespace Sys2Proof.Proofs

open Sys2Proof Sys2Proof.Machine Sys2Proof.Laws

/-! ### Host accesses to the memory window (20_memory R50 to R53) -/

section

variable {s t : State} {a x : Word} {ev : HostEvent} {rest : List HostEvent}

/-- The step of a configuration that has a meaning, with a host event left. -/
theorem step_hostEvent (hr : runnable s.cfg) (hs : s.host = ev :: rest) :
    step s = hostTurn ev { s with host := rest } := by
  rw [step_of_runnable hr, hs]

/-- A host memory write is never refused (60_exceptions R236). -/
theorem exists_hostMemWrite (a x : Word) (s : State) : ∃ t, hostMemWrite a x s = .next t := by
  unfold hostMemWrite
  split
  · exact ⟨_, rfl⟩
  · exact ⟨_, rfl⟩

/-- Byte k of a word, by its number (20_memory R53). -/
theorem extractLsb'_byte (x : Word) (k : Nat) : x.extractLsb' (8 * k) 8 = BitVec.ofNat 8 (x.toNat / 2 ^ (8 * k)) := by
  rw [BitVec.extractLsb', Nat.shiftRight_eq_div_pow]

/-- Memory after a host write, byte by byte: the bytes of x inside the window, every other byte as it was (R53). -/
theorem readByte_hostMemWrite (h : hostMemWrite a x s = .next t) (hm : s.mem.wf) (b : Nat) :
    t.mem.readByte b =
      if a.toNat ≤ b ∧ b < a.toNat + 8 ∧ b < s.cfg.memSize then x.extractLsb' (8 * (b - a.toNat)) 8
      else s.mem.readByte b := by
  rcases hostMemWrite_next h with ⟨hout, rfl⟩ | ⟨hin, _, _, _, rfl⟩
  · rw [if_neg (by omega)]
  · have hcover : a.toNat ≤ b ∧ b < a.toNat + bytesInside s.cfg a ↔
        a.toNat ≤ b ∧ b < a.toNat + 8 ∧ b < s.cfg.memSize := by
      unfold bytesInside
      omega
    rw [extractLsb'_byte]
    exact (readByte_writeBytes hm _ _ _ _).trans (if_congr hcover rfl rfl)

/-- A host write inside the window leaves its word there (20_memory R53). -/
theorem readWord_hostMemWrite (h : hostMemWrite a x s = .next t) (hm : s.mem.wf) (ha : insideWindow s.cfg a) :
    t.mem.readWord a.toNat = x := by
  cases (hostMemWrite_inside ha).symm.trans h
  exact readWord_writeWord_same hm _ _

/-- A host write changes memory and the race records only. -/
theorem hostMemWrite_frame (h : hostMemWrite a x s = .next t) :
    t = { s with mem := t.mem, latched := t.latched, kept := t.kept, draws := t.draws } := by
  rcases hostMemWrite_next h with ⟨-, rfl⟩ | ⟨-, _, _, _, rfl⟩
  · rfl
  · rfl

/-- A host write races with nothing while the engine is idle, or beyond the window (20_memory R60). -/
theorem hostMemWrite_no_race (h : hostMemWrite a x s = .next t) (hq : s.busy = false ∨ s.cfg.memSize ≤ a.toNat) :
    t.latched = s.latched ∧ t.kept = s.kept ∧ t.draws = s.draws := by
  unfold hostMemWrite at h
  split at h
  · cases h
    exact ⟨rfl, rfl, rfl⟩
  · next hin =>
    obtain ⟨hw, hr⟩ := inFlight_of_idle (hq.resolve_right hin)
    cases h
    simp only [hw, hr, raceLatch_nil, raceKeep_nil, and_self]

theorem raceView_nil (ts : List Nat) (m : Memory) (k : Nat) : raceView [] ts m k = (m, k) := by
  induction ts with
  | nil => rfl
  | cons t ts ih => simp [raceView, ih]

/-- A host read inside the window of an idle engine returns the word in memory (20_memory R52, R59). -/
theorem hostMemRead_of_idle (ha : insideWindow s.cfg a) (hb : s.busy = false) :
    hostMemRead a s = .next (s.observe (s.mem.readWord a.toNat)) := by
  rw [hostMemRead, if_pos ha, (inFlight_of_idle hb).1, raceView_nil]

end

/-- Settles O57: what a host write leaves of each byte, and the read of an idle engine's window. -/
theorem hostMemoryAccess : Obligations.HostMemoryAccess := by
  intro s a x rest hr hm
  refine ⟨fun hs => ?_, fun hs ha hb => ?_, fun hs ha => ?_⟩
  · obtain ⟨t, ht⟩ := exists_hostMemWrite a x { s with host := rest }
    have hbytes := readByte_hostMemWrite ht hm
    have hword := readWord_hostMemWrite ht hm
    have hrecords := hostMemWrite_no_race ht
    exact ⟨t, (step_hostEvent hr hs).trans ht, hbytes, hword, hostMemWrite_frame ht, hrecords⟩
  · exact (step_hostEvent hr hs).trans (hostMemRead_of_idle ha hb)
  · exact (step_hostEvent hr hs).trans (if_neg (Nat.not_le.2 ha))

/-! ### The words a running command reads and writes (20_memory R51) -/

theorem decode_encode (i : Instr) : decode (encode i) = .ok i := by
  cases i with
  | seedStream reqt => cases reqt <;> rfl
  | _ => rfl

section

variable {s : State} {i : Instr} {b : Nat}

/-- The command latched in the engine, for a word written out by its encoding. -/
theorem running_decode (h : s.running = some (encode i)) : s.running.map decode = some (.ok i) := by
  rw [h, Option.map_some, decode_encode]

/-- The engine's turn completes the command that runs (40_control R91). -/
theorem engineTurn_of_running (h : s.running.map decode = some (.ok i)) : engineTurn s = exec i s := by
  obtain ⟨w, hw, hd⟩ := Option.map_eq_some_iff.1 h
  simp only [engineTurn, hw, hd]

theorem readsInFlight_import (h : s.running.map decode = some (.ok .importState)) :
    s.readsInFlight = s.readPlan (recordWords s.cfg) := by
  rw [State.readsInFlight, h]

theorem readsInFlight_loadv (h : s.running.map decode = some (.ok .loadv)) :
    s.readsInFlight = s.readPlan s.cfg.n := by
  rw [State.readsInFlight, h]

theorem writesInFlight_fill (h : s.running.map decode = some (.ok .fillUniform)) :
    s.writesInFlight = s.fillPlan := by
  rw [State.writesInFlight, h]

theorem writesInFlight_export (h : s.running.map decode = some (.ok .exportState)) :
    s.writesInFlight = s.exportPlan := by
  rw [State.writesInFlight, h]

/-- Only IMPORT and LOADV read words of memory, and neither writes one (20_memory R51). -/
theorem readsInFlight_cases (h : b ∈ s.readsInFlight) :
    s.writesInFlight = [] ∧ ∃ words, s.readsInFlight = s.readPlan words := by
  unfold State.readsInFlight at h
  split at h
  · next hrun => exact ⟨by rw [State.writesInFlight, hrun], _, readsInFlight_import hrun⟩
  · next hrun => exact ⟨by rw [State.writesInFlight, hrun], _, readsInFlight_loadv hrun⟩
  · cases h

/-- The words a running command reads are in the window (20_memory R55). -/
theorem readsInFlight_within (h : b ∈ s.readsInFlight) : b + 8 ≤ s.cfg.memSize := by
  obtain ⟨-, words, hplan⟩ := readsInFlight_cases h
  rw [hplan, State.readPlan] at h
  split at h
  · next hok =>
    obtain ⟨k, hk, rfl⟩ := List.mem_map.1 h
    have hrange : s.arg0.toNat + 8 * words ≤ s.cfg.memSize := hok.2
    have := List.mem_range.1 hk
    omega
  · cases h

/-- The addresses of consecutive words, in order (20_memory R51). -/
theorem wordsAt_map_fst (a : Nat) (ws : List Word) :
    (wordsAt a ws).map Prod.fst = (List.range ws.length).map fun k => a + 8 * k := by
  induction ws generalizing a with
  | nil => rfl
  | cons w ws ih =>
    rw [wordsAt, List.map_cons, ih, List.length_cons, List.range_succ_eq_map, List.map_cons, List.map_map]
    refine congrArg _ (List.map_congr_left fun k _ => ?_)
    show a + 8 + 8 * k = a + 8 * (k + 1)
    omega

/-- EXPORT writes one word for each word of the state record (46_transfer R200). -/
theorem exportWords_length (h : EngineInv s) : s.exportWords.length = recordWords s.cfg := by
  simp [State.exportWords, recordWords, h.vLength]

/-- FILL_UNIFORM completes where its checks pass (43_extraction R143). -/
theorem exec_fillUniform_of_checks (hseed : s.seeded = true) (hcount : below32 s.arg0) (haddr : s.fillAddressOk) :
    exec .fillUniform s =
      succeed { s.withGen s.fillGen with cursor := s.fillCursor, mem := s.portWrites s.arg1.toNat s.fillWords } := by
  simp only [exec, execFillUniform, if_pos hseed, if_pos hcount, if_pos haddr]

/-- EXPORT completes where its checks pass (46_transfer R201). -/
theorem exec_export_of_checks (hseed : s.seeded = true)
    (haddr : addressOk s.cfg s.arg0.toNat (recordWords s.cfg)) :
    exec .exportState s = succeed { s with mem := s.portWrites s.arg0.toNat s.exportWords } := by
  simp only [exec, execExport, if_pos hseed, if_pos haddr]

/-- A command that writes words of memory completes with success and leaves them through the memory port (20_memory
R51, 40_control R92). -/
theorem engineTurn_of_writesInFlight (h : s.writesInFlight ≠ []) :
    ∃ a ws u, s.writesInFlight = wordsAt a ws ∧ engineTurn s = .next u ∧ u.err = false ∧
      u.mem = s.portWrites a ws := by
  unfold State.writesInFlight at h
  split at h
  · next hrun =>
    rw [writesInFlight_fill hrun, engineTurn_of_running hrun]
    unfold State.fillPlan at h ⊢
    split at h
    · next hok =>
      obtain ⟨hseed, hcount, haddr⟩ := hok
      exact ⟨_, _, _, if_pos ⟨hseed, hcount, haddr⟩, exec_fillUniform_of_checks hseed hcount haddr, rfl, rfl⟩
    · exact absurd rfl h
  · next hrun =>
    rw [writesInFlight_export hrun, engineTurn_of_running hrun]
    unfold State.exportPlan at h ⊢
    split at h
    · next hok =>
      obtain ⟨hseed, haddr⟩ := hok
      exact ⟨_, _, _, if_pos ⟨hseed, haddr⟩, exec_export_of_checks hseed haddr, rfl, rfl⟩
    · exact absurd rfl h
  · exact absurd rfl h

/-- The completion of a command leaves each word it writes, but for a word on which a host write won (20_memory R60). -/
theorem readWord_after_turn (hm : s.mem.wf) {c : Nat × Word} (hc : c ∈ s.writesInFlight) :
    ∃ u, engineTurn s = .next u ∧ u.err = false ∧
      u.mem.readWord c.1 = if c.1 ∈ s.kept then s.mem.readWord c.1 else c.2 := by
  obtain ⟨a, ws, u, hplan, hturn, herr, hmem⟩ := engineTurn_of_writesInFlight (List.ne_nil_of_mem hc)
  obtain ⟨k, -, haddr, hword⟩ := mem_wordsAt (hplan ▸ hc)
  refine ⟨u, hturn, herr, ?_⟩
  rw [hmem, haddr]
  exact (portWrites_spec s hm a ws).2.1 k c.2 hword

end

/-! ### Races for one aligned word (20_memory R60) -/

section

variable {s t : State} {a x : Word}

theorem touchedWords_aligned {b : Nat} (h : b % 8 = 0) : touchedWords b = [b] := if_pos h

/-- A racing read of one word returns the word in memory or the command's (20_memory R60). -/
theorem readWord_raceView {m : Memory} (hm : m.wf) (writes : List (Nat × Word)) (b k : Nat) :
    (raceView writes [b] m k).1.readWord b = m.readWord b ∨
      (b, (raceView writes [b] m k).1.readWord b) ∈ writes := by
  simp only [raceView]
  split
  · exact .inl rfl
  · next w hw =>
    obtain ⟨l₁, l₂, rfl, -⟩ := List.lookup_eq_some_iff.1 hw
    split
    · rw [readWord_writeWord_same hm]
      exact .inr (by simp)
    · exact .inl rfl

/-- A racing write to one word the command reads may latch the old word, and only where none is latched yet (20_memory
R60). -/
theorem raceLatch_single (m : Memory) (reads : List Nat) (b : Nat) (l : List (Nat × Word)) (k : Nat) :
    (raceLatch m reads [b] l k).1 = l ∨
      (l.lookup b = none ∧ (raceLatch m reads [b] l k).1 = (b, m.readWord b) :: l) := by
  simp only [raceLatch]
  split
  · next hread =>
    split
    · exact .inr ⟨Option.isNone_iff_eq_none.1 hread.2, rfl⟩
    · exact .inl rfl
  · exact .inl rfl

/-- Where the engine's view of memory goes after a host write to an aligned word: the old word or the new one there, the
old word at every other aligned address (20_memory R60). -/
theorem portRead_after_write (hm : s.mem.wf) (ha : a.toNat % 8 = 0) (hmem : t.mem = s.mem.writeWord a.toNat x)
    (hl : t.latched = s.latched ∨
      (s.latched.lookup a.toNat = none ∧ t.latched = (a.toNat, s.mem.readWord a.toNat) :: s.latched)) :
    (t.portRead a.toNat = s.portRead a.toNat ∨ t.portRead a.toNat = x) ∧
      ∀ b, b % 8 = 0 → b ≠ a.toNat → t.portRead b = s.portRead b := by
  unfold State.portRead
  refine ⟨?_, fun b hb hne => ?_⟩
  · rw [hmem, readWord_writeWord_same hm]
    rcases hl with hl | ⟨hnone, hl⟩
    · rw [hl]
      cases s.latched.lookup a.toNat with
      | none => exact .inr rfl
      | some w => exact .inl rfl
    · rw [hl, hnone, List.lookup_cons_self]
      exact .inl rfl
  · have hlook : t.latched.lookup b = s.latched.lookup b := by
      rcases hl with hl | ⟨-, hl⟩
      · rw [hl]
      · rw [hl, List.lookup_cons, beq_false_of_ne hne]
    rw [hlook, hmem, readWord_writeWord_other hm x (by omega)]

/-- A host write to an aligned word the running command reads: what it does to memory and to the latched words, and
nothing else changes (20_memory R60). -/
theorem hostMemWrite_read_word (x : Word) (ha : a.toNat % 8 = 0) (hr : a.toNat ∈ s.readsInFlight) :
    ∃ latched draws,
      hostMemWrite a x s = .next { s with mem := s.mem.writeWord a.toNat x, latched := latched, draws := draws } ∧
      (latched = s.latched ∨
        (s.latched.lookup a.toNat = none ∧ latched = (a.toNat, s.mem.readWord a.toNat) :: s.latched)) := by
  have hlatch := raceLatch_single s.mem s.readsInFlight a.toNat s.latched s.draws
  refine ⟨_, (raceLatch s.mem s.readsInFlight [a.toNat] s.latched s.draws).2, ?_, hlatch⟩
  rw [hostMemWrite_inside (readsInFlight_within hr), (readsInFlight_cases hr).1, touchedWords_aligned ha]
  simp only [raceKeep_nil]

/-- A host write leaves the words that the running command writes as they were (log 11). -/
theorem writesInFlight_hostMemWrite {evs : List HostEvent} (h : hostMemWrite a x { s with host := evs } = .next t) :
    t.writesInFlight = s.writesInFlight := by
  rcases hostMemWrite_next h with ⟨-, rfl⟩ | ⟨-, _, _, _, rfl⟩
  · exact writesInFlight_congr rfl rfl rfl rfl rfl rfl rfl rfl rfl
  · exact writesInFlight_congr rfl rfl rfl rfl rfl rfl rfl rfl rfl

end

/-- Settles O58: the word a racing read sees is memory's or the command's (`readWord_raceView`). -/
theorem racingHostRead : Obligations.RacingHostRead := by
  intro s a rest hr hm hs ha hin
  have hwrites : State.writesInFlight { s with host := rest } = s.writesInFlight :=
    writesInFlight_congr rfl rfl rfl rfl rfl rfl rfl rfl rfl
  refine ⟨_, _, (step_hostEvent hr hs).trans (if_pos hin), ?_⟩
  rw [hwrites, touchedWords_aligned ha]
  exact readWord_raceView hm _ _ _

/-- Settles O59: the read plans of IMPORT and LOADV, and the latch a racing write draws (`portRead_after_write`). -/
theorem racingHostWriteToReadWord : Obligations.RacingHostWriteToReadWord := by
  refine ⟨fun s => ⟨fun hrun h0 h1 => ?_, fun hrun h0 h1 => ?_⟩, fun s a x rest hr hm hs ha hread => ?_⟩
  · rw [readsInFlight_import (running_decode hrun)]
    exact if_pos ⟨h0, h1⟩
  · rw [readsInFlight_loadv (running_decode hrun)]
    exact if_pos ⟨h0, h1⟩
  · have hread' : a.toNat ∈ State.readsInFlight { s with host := rest } := hread
    obtain ⟨latched, draws, hturn, hl⟩ := hostMemWrite_read_word x ha hread'
    obtain ⟨hsame, hother⟩ := portRead_after_write
      (t := { s with host := rest, mem := s.mem.writeWord a.toNat x, latched := latched, draws := draws }) hm ha rfl hl
    exact ⟨_, (step_hostEvent hr hs).trans hturn, readWord_writeWord_same hm _ _, hsame, hother,
      fun b hb => readByte_writeWord_outside hm x hb, rfl⟩

/-- Settles O60: the write plans of FILL_UNIFORM and EXPORT, and what the completion leaves of each word
(`readWord_after_turn`), before and after a racing write. -/
theorem racingHostWriteToWrittenWord : Obligations.RacingHostWriteToWrittenWord := by
  refine ⟨fun s h hseed => ⟨fun hrun hcount haddr => ?_, fun hrun h0 h1 => ?_⟩, fun s h hk c hc => ?_,
    fun s a x w rest hr h hs hw => ?_⟩
  · rw [writesInFlight_fill (running_decode hrun), State.fillPlan, if_pos ⟨hseed, hcount, haddr⟩, wordsAt_map_fst,
      fillWords_length h.cfgLegal (genOk_of_inv h)]
  · rw [writesInFlight_export (running_decode hrun), State.exportPlan, if_pos ⟨hseed, h0, h1⟩, wordsAt_map_fst,
      exportWords_length h]
    rfl
  · obtain ⟨u, hturn, -, hword⟩ := readWord_after_turn h.memCanonical hc
    exact ⟨u, hturn, hword.trans (if_neg (by simp [hk]))⟩
  · obtain ⟨t, ht⟩ := exists_hostMemWrite a x { s with host := rest }
    have hm : t.mem.wf := (hostMemWrite_inv (inv_of_other_fields h) ht).memCanonical
    have hplan : t.writesInFlight = s.writesInFlight := writesInFlight_hostMemWrite ht
    have hhost : t.mem.readWord a.toNat = x :=
      readWord_hostMemWrite ht h.memCanonical (writesInFlight_within h _ hw)
    obtain ⟨u, hturn, herr, hword⟩ := readWord_after_turn hm (hplan ▸ hw)
    refine ⟨t, u, (step_hostEvent hr hs).trans ht, hturn, ?_, herr⟩
    rw [hword, hhost]
    exact ite_eq_or_eq _ _ _

end Sys2Proof.Proofs

namespace Sys2Proof.Proofs

open Sys2Proof Sys2Proof.Machine Sys2Proof.Laws

/-! ### Command words: the fields of a word, the opcode map, and the words it leaves out (30_encoding) -/

section

variable {s : State} {i : Instr} {w : Word} {f : CommandFields}

/-- OPC, REQT and the reserved bits are all the bits of a word (30_encoding R70). -/
theorem wordOfFields_commandFields (w : Word) : wordOfFields (commandFields w) = w := by
  unfold wordOfFields commandFields
  refine BitVec.eq_of_getLsbD_eq fun k hk => ?_
  rw [BitVec.getLsbD_append, BitVec.getLsbD_append, BitVec.getLsbD_extractLsb', BitVec.getLsbD_extractLsb',
    BitVec.getLsbD_ofBool]
  rcases Nat.lt_trichotomy k 8 with hopc | rfl | hreserved
  · simp [hopc]
  · simp
  · rw [show 9 + (k - 8 - 1) = k by omega]
    simp [show ¬ k < 8 by omega, show ¬ k - 8 < 1 by omega, show k - 8 - 1 < 55 by omega]

/-- A command's fields are those with its OPC, its REQT and no reserved bit (30_encoding R70). -/
theorem fields_eq (hopc : i.opcode = f.opc) (hreqt : i.reqtBit = f.reqt) (hreserved : f.reserved = 0) :
    i.fields = f := by
  rw [Instr.fields, hopc, hreqt, ← hreserved]

/-- REQT is a bit of SEED_STREAM alone (30_encoding R70). -/
theorem reqtBit_of_opcode_ne (h : i.opcode ≠ 0x33) : i.reqtBit = false := by
  cases i with
  | seedStream reqt => exact absurd rfl h
  | _ => rfl

/-- Every OPC value of the map is a command's (30_encoding R71). -/
theorem exists_opcode_eq {opc : BitVec 8} (h : opc ∈ assignedOpcodes) : ∃ i : Instr, i.opcode = opc := by
  have hmap : opc ∈ [Instr.nop, .modadd, .modmul, .fmma, .reduce, .iterate, .iterateN, .nextRaw, .nextUniform,
      .fillUniform, .seedBasis, .seedLinear, .recomputeCsum, .seedStream false, .skip, .exportState, .importState,
      .loadv].map Instr.opcode := h
  obtain ⟨i, -, hi⟩ := List.mem_map.1 hmap
  exact ⟨i, hi⟩

/-- Legal fields are a command's: SEED_STREAM's with either REQT, every other command's with REQT = 0 (R72). -/
theorem exists_fields_eq (h : f.wf) : ∃ i : Instr, i.fields = f := by
  obtain ⟨hopc, hreserved, hreqt⟩ := h
  by_cases hseed : f.opc = 0x33
  · exact ⟨.seedStream f.reqt, fields_eq hseed.symm rfl hreserved⟩
  · obtain ⟨i, hi⟩ := exists_opcode_eq hopc
    have hclear : f.reqt = false := Bool.eq_false_iff.2 (mt hreqt hseed)
    exact ⟨i, fields_eq hi ((reqtBit_of_opcode_ne (hi ▸ hseed)).trans hclear.symm) hreserved⟩

/-- A command without a REQT bit is decoded from its own fields only (30_encoding R72). -/
theorem fields_of_withoutReqt {j : Instr} (h : withoutReqt f.reqt j = .ok i) (hj : j.reqtBit = false)
    (hopc : f.opc.toNat = j.opcode.toNat) (hreserved : f.reserved = 0) : i.fields = f := by
  unfold withoutReqt at h
  split at h
  case isTrue => cases h
  case isFalse hreqt =>
    cases h
    exact fields_eq (BitVec.eq_of_toNat_eq hopc.symm) (hj.trans (Bool.eq_false_iff.2 hreqt).symm) hreserved

/-- What the opcode map decodes has the fields it was decoded from: no field is dropped (30_encoding R71). -/
theorem fields_of_decodeFields (h : decodeFields f = .ok i) : i.fields = f := by
  unfold decodeFields at h
  split at h
  case isTrue => cases h
  case isFalse hreserved =>
    rw [not_not] at hreserved
    split at h
    case h_14 hopc =>
      cases h
      exact fields_eq (BitVec.eq_of_toNat_eq hopc.symm) rfl hreserved
    case h_19 => cases h
    all_goals exact fields_of_withoutReqt h rfl ‹_› hreserved

/-- A word decodes to a command exactly when it is that command's word. -/
theorem decode_eq_ok_iff : decode w = .ok i ↔ encode i = w := by
  constructor
  · intro h
    have hfields : i.fields = commandFields w := fields_of_decodeFields h
    rw [encode, hfields, wordOfFields_commandFields]
  · rintro rfl
    exact decode_encode i

/-- Every command's word is legal (30_encoding R72). -/
theorem encode_wf (i : Instr) : (commandFields (encode i)).wf :=
  match i with
  | .nop => EncodesLegally.nop
  | .modadd => EncodesLegally.modadd
  | .modmul => EncodesLegally.modmul
  | .fmma => EncodesLegally.fmma
  | .reduce => EncodesLegally.reduce
  | .iterate => EncodesLegally.iterate
  | .iterateN => EncodesLegally.iterateN
  | .nextRaw => EncodesLegally.nextRaw
  | .nextUniform => EncodesLegally.nextUniform
  | .fillUniform => EncodesLegally.fillUniform
  | .seedBasis => EncodesLegally.seedBasis
  | .seedLinear => EncodesLegally.seedLinear
  | .recomputeCsum => EncodesLegally.recomputeCsum
  | .seedStream reqt => EncodesLegally.seedStream reqt
  | .skip => EncodesLegally.skip
  | .exportState => EncodesLegally.exportState
  | .importState => EncodesLegally.importState
  | .loadv => EncodesLegally.loadv

/-- The words that decode to a command are the legal ones (30_encoding R72). -/
theorem exists_decode_eq_ok_iff : (∃ i, decode w = .ok i) ↔ (commandFields w).wf := by
  simp only [decode_eq_ok_iff]
  constructor
  · rintro ⟨i, rfl⟩
    exact encode_wf i
  · intro h
    obtain ⟨i, hi⟩ := exists_fields_eq h
    exact ⟨i, by rw [encode, hi, wordOfFields_commandFields]⟩

/-- A CMD write to an idle engine is accepted, whatever the word (40_control R90). -/
theorem writeReg_cmd_of_idle (hb : s.busy = false) : s.writeReg w .cmd = accept w s := by
  simp only [State.writeReg, hb, Bool.false_eq_true, if_false]

/-- A word the decoder rejects completes with IllegalCommand, for whatever reason it is rejected (30_encoding R72). -/
theorem engineTurn_of_decode_error {e : DecodeError} (hw : s.running = some w) (hd : decode w = .error e) :
    engineTurn s = .next (failed .illegalCommand s) := by
  simp only [engineTurn, hw, hd, raise]

end

/-- Settles O3: the opcode map drops no field (`fields_of_decodeFields`), and the fields are the whole word. -/
theorem decodeEncodeAgree : Obligations.DecodeEncodeAgree :=
  ⟨decode_encode, fun _ _ => decode_eq_ok_iff.1⟩

/-- Settles O2: the legal words are those with a command's fields (`exists_decode_eq_ok_iff`). -/
theorem legalWordsAreDecoded : Obligations.LegalWordsAreDecoded := by
  refine fun w => ⟨exists_decode_eq_ok_iff, fun _ => writeReg_cmd_of_idle, fun hillegal s hw => ?_⟩
  cases hd : decode w with
  | ok i => exact absurd ⟨i, hd⟩ hillegal
  | error e => exact engineTurn_of_decode_error hw hd

/-- Settles O1: the three illegal words fail for a REQT bit, an unassigned OPC and a reserved bit. -/
theorem specExampleWordsDecode : Obligations.SpecExampleWordsDecode := by
  refine ⟨rfl, decode_encode (.seedStream true), rfl, decode_encode (.seedStream false), rfl,
    decode_encode .fillUniform, fun w hw s hrun => ?_⟩
  simp only [List.mem_cons, List.not_mem_nil, or_false] at hw
  rcases hw with rfl | rfl | rfl
  · exact engineTurn_of_decode_error (e := .requireTableNotAllowed) hrun rfl
  · exact engineTurn_of_decode_error (e := .reservedOpcode) hrun rfl
  · exact engineTurn_of_decode_error (e := .reservedBits) hrun rfl

end Sys2Proof.Proofs

namespace Sys2Proof.Proofs

open Sys2Proof Sys2Proof.Machine Sys2Proof.Laws

/-! ### The lifecycle of a command, and schedules of host events (40_control R90 to R93) -/

section

variable {s : State} {ev : HostEvent} {rest : List HostEvent} {w : Word}

/-- A command answers a state in which no command runs, with success or one of its own errors reported (40_control R92,
60_exceptions R220). -/
theorem exec_completes (i : Instr) (s : State) :
    ∃ t, exec i s = .next t ∧ t.busy = false ∧
      ((t.err = false ∧ t.errcode = 0) ∨ (t.err = true ∧ ∃ e ∈ errorsOf i, t.errcode = e.code)) := by
  rcases exec_succeeds_or_raises i s with ⟨u, -, hu⟩ | ⟨e, he, hraise⟩
  · exact ⟨completed u, hu, rfl, .inl ⟨rfl, rfl⟩⟩
  · exact ⟨failed e s, hraise, rfl, .inr ⟨rfl, e, he, rfl⟩⟩

/-- A word that is no command's completes with IllegalCommand (30_encoding R72). -/
theorem engineTurn_of_illegal (hw : s.running = some w) (hillegal : ¬ ∃ i, decode w = .ok i) :
    engineTurn s = .next (failed .illegalCommand s) := by
  cases hd : decode w with
  | ok i => exact absurd ⟨i, hd⟩ hillegal
  | error e => exact engineTurn_of_decode_error hw hd

/-- The engine's turn runs the command whose word is latched (40_control R91). -/
theorem engineTurn_of_decode {i : Instr} (hw : s.running = some w) (hd : decode w = .ok i) :
    engineTurn s = exec i s := engineTurn_of_running (by rw [hw, Option.map_some, hd])

/-- The turn of an idle engine changes nothing (60_exceptions R235). -/
theorem engineTurn_of_idle (hidle : s.running = none) : engineTurn s = .next s := by
  simp only [engineTurn, hidle]

/-- After the engine's turn no command runs, and the host events still to happen are as they were (40_control R92,
R93). -/
theorem engineTurn_ends_idle (s : State) :
    ∃ t, engineTurn s = .next t ∧ t.busy = false ∧ t.host = s.host := by
  cases hw : s.running with
  | none => exact ⟨s, engineTurn_of_idle hw, (busy_eq_false_iff s).2 hw, rfl⟩
  | some w =>
    cases hd : decode w with
    | ok i =>
      obtain ⟨t, ht, hbusy, -⟩ := exec_completes i s
      exact ⟨t, (engineTurn_of_decode hw hd).trans ht, hbusy, (exec_frame ht).host⟩
    | error e => exact ⟨_, engineTurn_of_decode_error hw hd, rfl, rfl⟩

/-- A register write leaves the host events still to happen. -/
@[simp] theorem writeReg_host (s : State) (x : Word) (r : HostReg) : (s.writeReg x r).host = s.host := by
  rcases writeReg_accepts_or_sets s x r with hw | ⟨_, _, _, _, _, _, hw⟩
  · rw [hw, accept_host]
  · rw [hw]

/-- A host memory read is never refused (60_exceptions R236). -/
theorem exists_hostMemRead (a : Word) (s : State) : ∃ t, hostMemRead a s = .next t := by
  unfold hostMemRead
  split
  · exact ⟨_, rfl⟩
  · exact ⟨_, rfl⟩

/-- A host memory read leaves the host events still to happen. -/
theorem hostMemRead_host {a : Word} {t : State} (h : hostMemRead a s = .next t) : t.host = s.host := by
  rcases hostMemRead_next h with ⟨-, rfl⟩ | ⟨-, rfl⟩
  · rfl
  · rfl

/-- A host event that has a meaning answers a state, and leaves the events after it (60_exceptions R236). -/
theorem exists_hostTurn (h : eventOk ev) (s : State) : ∃ t, hostTurn ev s = .next t ∧ t.host = s.host := by
  cases ev with
  | regWrite width offset x => exact ⟨_, hostRegWrite_next.2 ⟨h, rfl⟩, writeReg_host s x _⟩
  | regRead width offset => exact ⟨_, hostRegRead_next.2 ⟨h, rfl⟩, rfl⟩
  | memWrite a x =>
    obtain ⟨t, ht⟩ := exists_hostMemWrite a x s
    exact ⟨t, ht, by rw [hostMemWrite_frame ht]⟩
  | memRead a =>
    obtain ⟨t, ht⟩ := exists_hostMemRead a s
    exact ⟨t, ht, hostMemRead_host ht⟩
  | reset => exact ⟨hardReset s, rfl, rfl⟩
  | engineTurn =>
    obtain ⟨t, ht, -, hhost⟩ := engineTurn_ends_idle s
    exact ⟨t, ht, hhost⟩

/-- The step of a configuration that has a meaning, with no host event left: the engine's turn (40_control R93). -/
theorem step_engineTurn (hr : runnable s.cfg) (hs : s.host = []) : step s = engineTurn s := by
  rw [step_of_runnable hr, hs]

/-- A step of a safe run takes the next host event, and the rest of the run is safe. -/
theorem step_of_safeRun (h : safeRun s) (hs : s.host = ev :: rest) :
    ∃ t, step s = .next t ∧ t.host = rest ∧ safeRun t := by
  obtain ⟨hr, hevents⟩ := h
  rw [hs, List.forall_mem_cons] at hevents
  obtain ⟨hev, hrest⟩ := hevents
  obtain ⟨t, ht, hhost⟩ := exists_hostTurn hev { s with host := rest }
  have hstep : step s = .next t := (step_hostEvent hr hs).trans ht
  exact ⟨t, hstep, hhost, (step_cfg hstep).symm ▸ hr, hhost.symm ▸ hrest⟩

/-- A run goes on from the state its first step answers. -/
theorem run_succ_of_step {M : Host.Core} {s t : M.State} (k : Nat) (h : M.step s = .next t) :
    M.run (k + 1) s = M.run k t := by
  rw [Host.Core.run, h]

/-- The command word put in place for the next step is the word latched, with no host event before its completion. -/
theorem withFetchWord_toNat (s : State) (w : Word) : s.withFetchWord 64 w.toNat = latchCommand w s := by
  rw [State.withFetchWord, Nat.mod_eq_of_lt w.isLt, BitVec.ofNat_toNat, BitVec.setWidth_eq]

end

/-- Settles O13, by induction on the host events: each step takes one of them, and the last is the engine's turn. -/
theorem safeScheduleEndsIdle : Obligations.SafeScheduleEndsIdle := by
  intro s h
  induction hs : s.host generalizing s with
  | nil =>
    obtain ⟨t, ht, hbusy, hhost⟩ := engineTurn_ends_idle s
    exact ⟨t, run_succ_of_step (M := core) 0 ((step_engineTurn h.1 hs).trans ht), hbusy, hhost.trans hs⟩
  | cons ev rest ih =>
    obtain ⟨t, hstep, hhost, hsafe⟩ := step_of_safeRun h hs
    obtain ⟨u, hrun, hidle⟩ := ih t hsafe hhost
    exact ⟨u, (run_succ_of_step (M := core) _ hstep).trans hrun, hidle⟩

/-- Settles O4: the turn of a latched command, of an illegal word and of an idle engine, with or without the event that
lets the engine go on. -/
theorem stepRunsDecodedCommand : Obligations.StepRunsDecodedCommand := by
  refine fun s hr rest => ⟨fun hs w i hw hd => ?_, fun hs w i hw hd => ?_, fun hs w hw hillegal => ?_,
    fun hs w hw hillegal => ?_, fun hs hidle => ?_, fun i => ?_⟩
  · exact (step_engineTurn hr hs).trans (engineTurn_of_decode hw hd)
  · exact (step_hostEvent hr hs).trans (engineTurn_of_decode (s := { s with host := rest }) hw hd)
  · exact (step_engineTurn hr hs).trans (engineTurn_of_illegal hw hillegal)
  · exact (step_hostEvent hr hs).trans (engineTurn_of_illegal (s := { s with host := rest }) hw hillegal)
  · exact (step_engineTurn hr hs).trans (engineTurn_of_idle hidle)
  · rw [withFetchWord_toNat, step_engineTurn (s := latchCommand (encode i) s) hr rfl]
    exact engineTurn_of_decode rfl (decode_encode i)

/-- Settles O5: the write reaches CMD while the engine is idle, so it is an acceptance. -/
theorem commandAcceptance : Obligations.CommandAcceptance := by
  intro s w rest hr hs hidle
  have haccept : State.writeReg { s with host := rest } w .cmd = accept w { s with host := rest } :=
    writeReg_cmd_of_idle hidle
  exact ⟨_, (step_regWrite hr hs rfl).trans (congrArg _ haccept), rfl, rfl⟩

/-- Settles O15: NOP is a successful completion with no update (40_control R94). -/
theorem nopResult : Obligations.NopResult :=
  ⟨by decide, fun s => (succeed_eq_next s (completed s)).2 rfl⟩

/-- Settles O48: a command completes with one of its codes (`exec_completes`), with NotSeeded where it needs a state. -/
theorem everyCommandCompletesWithItsCodes : Obligations.EveryCommandCompletesWithItsCodes := by
  refine fun i s => ⟨exec_completes i s, fun hneeds hs => exec_of_unseeded hneeds hs, fun e => ?_⟩
  obtain ⟨hne, hle⟩ := StoreInv.code_range e
  exact ⟨Nat.one_le_iff_ne_zero.2 fun h0 => hne (BitVec.eq_of_toNat_eq h0), hle⟩

end Sys2Proof.Proofs

namespace Sys2Proof.Proofs

open Sys2Proof Sys2Proof.Machine Sys2Proof.Laws

/-! ### The laws of one fold and of the wide fold (41_kernel R100, R102, R114) -/

section

variable {k s : Nat}

/-- 2^61 is 1 modulo p, so the bits above 61 may be added to those below (41_kernel R100). -/
theorem fold_modEq (k : Nat) : fold k ≡ k [MOD mersBase] := by
  rw [fold_eq, Nat.ModEq, mersBase_eq]
  omega

theorem fold_le (h : k ≤ 2 * mersBase) : fold k ≤ mersBase := by
  rw [mersBase_eq] at h
  rw [fold_eq, mersBase_eq]
  omega

theorem fold_eq_zero_iff (k : Nat) : fold k = 0 ↔ k = 0 := by
  rw [fold_eq]
  omega

/-- The upper word of an input of the reduction has at most 58 bits (41_kernel R114). -/
theorem reduceMax_high_le (h : s ≤ reduceMax) : s / 2 ^ 64 ≤ 2 ^ 58 - 1 := by
  have hs : s ≤ 2305843009213693951 * 2305843009213693952 := h
  omega

/-- On the domain of the reduction one more fold is enough (41_kernel R114). -/
theorem foldWide_le (h : s ≤ reduceMax) : foldWide s ≤ 2 * mersBase := by
  have hs : s ≤ 2305843009213693951 * 2305843009213693952 := h
  rw [foldWide_eq, mersBase_eq]
  omega

/-- 2^64 is 8 modulo p (41_kernel R102). -/
theorem foldWide_modEq (s : Nat) : foldWide s ≡ s [MOD mersBase] := by
  rw [foldWide_eq, Nat.ModEq, mersBase_eq]
  omega

theorem foldWide_eq_zero_iff (s : Nat) : foldWide s = 0 ↔ s = 0 := by
  rw [foldWide_eq]
  omega

end

/-! ### Which representative the reduction picks in the class of 0 (41_kernel R101) -/

theorem red_lazy_eq_mersBase_iff (x : Nat) : red .lazy x = mersBase ↔ 0 < x ∧ mersBase ∣ x := by
  rw [mersBase_eq]
  simp only [red, mersBase_eq]
  split <;> omega

theorem red_canonical_ne_mersBase (x : Nat) : red .canonical x ≠ mersBase :=
  (Nat.mod_lt x (by decide)).ne

/-! ### The kernel commands as red of an exact number (41_kernel R109 to R112) -/

section

variable (s : State)

/-- The shape of the four kernel commands: the operands pass and RESULT is the kernel's r, or OperandRange. What r is
matters only where the operands pass. -/
theorem kernel_completion {ok : Prop} [Decidable ok] {r x : Nat} (h : ok → r = red s.cfg.pReduce x) :
    (if ok then succeed { s with result := BitVec.ofNat 64 r } else raise .operandRange s) =
      if ok then .next (completed { s with result := BitVec.ofNat 64 (red s.cfg.pReduce x) })
      else .next (failed .operandRange s) :=
  ite_congr rfl (fun hok => by rw [h hok, succeed]) fun _ => rfl

theorem exec_modadd :
    exec .modadd s =
      if residueOk s.arg0 ∧ residueOk s.arg1 then
        .next (completed { s with result := BitVec.ofNat 64 (red s.cfg.pReduce (s.arg0.toNat + s.arg1.toNat)) })
      else .next (failed .operandRange s) :=
  kernel_completion s fun ⟨h0, h1⟩ => modadd_eq_red _ h0 h1

theorem exec_modmul :
    exec .modmul s =
      if residueOk s.arg0 ∧ residueOk s.arg1 then
        .next (completed { s with result := BitVec.ofNat 64 (red s.cfg.pReduce (s.arg0.toNat * s.arg1.toNat)) })
      else .next (failed .operandRange s) :=
  kernel_completion s fun ⟨h0, h1⟩ => modmul_eq_red _ h0 h1

theorem exec_fmma :
    exec .fmma s =
      if residueOk s.arg0 ∧ residueOk s.arg1 ∧ residueOk s.arg2 then
        .next (completed { s with
          result := BitVec.ofNat 64 (red s.cfg.pReduce (s.arg0.toNat + s.arg1.toNat * s.arg2.toNat)) })
      else .next (failed .operandRange s) :=
  kernel_completion s fun ⟨h0, h1, h2⟩ => fmma_eq_red _ h0 h1 h2

theorem exec_reduce :
    exec .reduce s =
      if s.reduceInput ≤ reduceMax then
        .next (completed { s with result := BitVec.ofNat 64 (red s.cfg.pReduce s.reduceInput) })
      else .next (failed .operandRange s) :=
  kernel_completion s fun h => reduce128_eq_red _ h

end

/-- The bound of REDUCE in the two forms the spec writes it (41_kernel R102). -/
theorem reduceMax_eq : reduceMax = 2 ^ 122 - 2 ^ 61 := by decide

/-- Settles O17: reduce128 is `red` on the domain, and the two folds behind it keep the class and zero-ness. -/
theorem reductionIsRed : Obligations.ReductionIsRed := by
  intro s hs
  have hred (m : ReduceMode) : reduce128 m s = red m s := reduce128_eq_red m hs
  exact ⟨fun m => ⟨hred m, hred m ▸ red_le m s, hred m ▸ red_modEq m s⟩, hred .lazy ▸ red_lazy_eq_zero_iff s,
    hred .lazy ▸ red_lazy_eq_mersBase_iff s, hred .canonical ▸ red_canonical_ne_mersBase s, reduceMax_high_le hs,
    foldWide_le hs, foldWide_modEq s, foldWide_eq_zero_iff s, hred .lazy⟩

/-- Settles O18, by the fold of modadd over the vector (`foldl_modadd_eq_red`). -/
theorem checksumsAreRedOfSum : Obligations.ChecksumsAreRedOfSum :=
  fun m _ hv => ⟨csumFull_eq_red m hv, csumExcl0_eq_red m hv⟩

/-- Settles O19: the word, and the two branches of `exec_modadd`. -/
theorem modaddResult : Obligations.ModaddResult :=
  ⟨by decide, fun s => ⟨fun h0 h1 => (exec_modadd s).trans (if_pos ⟨h0, h1⟩),
    fun h => (exec_modadd s).trans (if_neg (by omega))⟩⟩

/-- Settles O20: the word, and the two branches of `exec_modmul`. -/
theorem modmulResult : Obligations.ModmulResult :=
  ⟨by decide, fun s => ⟨fun h0 h1 => (exec_modmul s).trans (if_pos ⟨h0, h1⟩),
    fun h => (exec_modmul s).trans (if_neg (by omega))⟩⟩

/-- Settles O21: the word, and the two branches of `exec_fmma`. -/
theorem fmmaResult : Obligations.FmmaResult :=
  ⟨by decide, fun s => ⟨fun h0 h1 h2 => (exec_fmma s).trans (if_pos ⟨h0, h1, h2⟩),
    fun h => (exec_fmma s).trans (if_neg (by omega))⟩⟩

/-- Settles O22: the word, and the two branches of `exec_reduce`, whose bound is p·(p+1). -/
theorem reduceResult : Obligations.ReduceResult :=
  ⟨by decide, fun s => ⟨fun h => (exec_reduce s).trans (if_pos (reduceMax_eq ▸ h)),
    fun h => (exec_reduce s).trans (if_neg (reduceMax_eq ▸ Nat.not_le.2 h))⟩⟩

/-- Settles O16: the fold as remainder and quotient, and its laws. -/
theorem foldLaw : Obligations.FoldLaw :=
  fun k => ⟨fold_eq k, fold_modEq k, fun h => ⟨fold_le h, fold_eq_zero_iff k⟩⟩

end Sys2Proof.Proofs

namespace Sys2Proof.Proofs

open Sys2Proof Sys2Proof.Machine Sys2Proof.Laws

/-! ### The elements of a list as a function of the index -/

section

variable {v w : List Nat}

@[simp] theorem elementOf_cons_zero (x : Nat) (v : List Nat) : elementOf (x :: v) 0 = x := rfl

@[simp] theorem elementOf_cons_succ (x : Nat) (v : List Nat) (i : Nat) :
    elementOf (x :: v) (i + 1) = elementOf v i := rfl

theorem elementOf_eq_getElem {i : Nat} (h : i < v.length) : elementOf v i = v[i] :=
  (List.getElem_eq_getD 0).symm

theorem elementOf_eq_zero (h : ∀ x ∈ v, x = 0) (i : Nat) : elementOf v i = 0 := by
  rw [elementOf, List.getD_eq_getElem?_getD]
  cases hi : v[i]? with
  | none => rfl
  | some x => exact h x (List.mem_of_getElem? hi)

theorem exists_elementOf_of_mem {x : Nat} (h : x ∈ v) : ∃ i < v.length, elementOf v i = x := by
  obtain ⟨i, hi, rfl⟩ := List.getElem_of_mem h
  exact ⟨i, hi, elementOf_eq_getElem hi⟩

theorem ext_elementOf (hl : v.length = w.length) (h : ∀ i < v.length, elementOf v i = elementOf w i) : v = w :=
  List.ext_getElem hl fun i hv hw => by rw [← elementOf_eq_getElem hv, ← elementOf_eq_getElem hw, h i hv]

theorem sum_elementOf (v : List Nat) : ∑ i ∈ Finset.range v.length, elementOf v i = v.sum := by
  induction v with
  | nil => rfl
  | cons x v ih => simp [Finset.sum_range_succ', ih, Nat.add_comm]

theorem elementOf_set {i : Nat} (x : Nat) (h : i < v.length) (k : Nat) :
    elementOf (v.set i x) k = if k = i then x else elementOf v k := by
  by_cases hk : k = i
  · subst hk
    simp [elementOf, h]
  · simp [elementOf, hk, List.getD_eq_getElem?_getD, List.getElem?_set_ne (Ne.symm hk)]

end

/-! ### The raw iteration element by element (42_iteration R120, R121) -/

theorem red_red (m : ReduceMode) (x : Nat) : red m (red m x) = red m x := red_red_add m x 0

/-- The exact number whose reduction is element i after the sweep (42_iteration R120): each old element past the first
enters once for every carry from its own on. -/
def sweepSum (g : Gen) (i : Nat) : Nat :=
  elementOf g.v 0 + g.cs + ∑ l ∈ Finset.range i, (i - l) * elementOf g.v (l + 1)

/-- What SPECIAL adds to the exact number of element i (42_iteration R121). -/
def specialTerm (c : Config) (g : Gen) (i : Nat) : Nat :=
  if i = 2 then specialValue c * elementOf g.v 1 else 0

/-- The loop's element i, started from any partial sum P and carry C: P enters every one of the i + 1 carries. -/
theorem elementOf_iterLoop (m : ReduceMode) (P C total : Nat) {v : List Nat} (hv : residues v) {i : Nat}
    (hi : i < v.length) :
    elementOf (iterLoop m (red m P) (red m C) total v).1 i =
      red m (C + (i + 1) * P + ∑ l ∈ Finset.range (i + 1), (i + 1 - l) * elementOf v l) := by
  induction v generalizing P C total i with
  | nil => simp at hi
  | cons x v ih =>
    have hx : x ≤ mersBase := hv x (by simp)
    have hpart : modadd m (red m P) x = red m (P + x) := by
      rw [modadd_eq_red m (red_le m P) hx, red_red_add]
    have hcarry : modadd m (red m C) (red m (P + x)) = red m (C + (P + x)) := by
      rw [modadd_eq_red m (red_le m C) (red_le m _), red_red_add, red_add_red]
    simp only [iterLoop, hpart, hcarry]
    cases i with
    | zero => simp [Nat.add_assoc]
    | succ i =>
      rw [elementOf_cons_succ, ih _ _ _ (fun y hy => hv y (by simp [hy])) (by simpa using hi),
        Finset.sum_range_succ' _ (i + 1)]
      simp only [elementOf_cons_succ, elementOf_cons_zero, Nat.add_sub_add_right, Nat.sub_zero]
      congr 1
      ring

theorem elementOf_iterSweep {c : Config} {g : Gen} (m : ReduceMode) (hg : GenOk c g) {i : Nat} (hi : i < c.n) :
    elementOf (iterSweep m g).1 i = red m (sweepSum g i) := by
  obtain ⟨hl, hv, hcs⟩ := hg
  obtain ⟨_ | ⟨x, v⟩, cs⟩ := g
  · exact absurd (hi.trans_eq hl.symm) (Nat.not_lt_zero i)
  · have hcarry : modadd m x cs = red m (x + cs) := modadd_eq_red m (hv x (by simp)) hcs
    cases i with
    | zero => simp [iterSweep, sweepSum, hcarry]
    | succ i =>
      have hloop := elementOf_iterLoop m 0 (x + cs) 0 (fun y hy => hv y (by simp [hy]))
        (show i < v.length by simpa [← hl] using hi)
      simpa [iterSweep, sweepSum, hcarry] using hloop

/-- The SPECIAL correction is red of the exact product, which is 0 where SPECIAL_C is none (42_iteration R121). -/
theorem specialCorr_eq_red {c : Config} {g : Gen} (hc : c.wf) (hg : GenOk c g) :
    specialCorr c g = red c.pReduce (specialValue c * elementOf g.v 1) := by
  cases hk : c.specialC with
  | none => simp [specialCorr, specialValue, hk]
  | some k =>
    simp only [specialCorr, specialValue, hk]
    exact modmul_eq_red _ (specialC_le hc hk) (getD_le_of_residues hg.elements 1)

/-- A vector whose elements are reductions of exact numbers stays one: SPECIAL adds its term to the number. -/
theorem elementOf_specialV {c : Config} {g : Gen} {v : List Nat} (hc : c.wf) (hg : GenOk c g) (hl : v.length = c.n)
    {i x : Nat} (hx : elementOf v i = red c.pReduce x) :
    elementOf (specialV c g v) i = red c.pReduce (x + specialTerm c g i) := by
  cases hk : c.specialC with
  | none => simpa [specialV, specialTerm, specialValue, hk] using hx
  | some k =>
    have h2 : 2 < v.length := by have := hc.1; omega
    simp only [specialV, hk]
    rw [elementOf_set _ h2]
    by_cases hi : i = 2
    · subst hi
      rw [if_pos rfl, specialTerm, if_pos rfl, show v.getD 2 0 = _ from hx,
        modadd_eq_red _ (red_le _ _) (specialCorr_le hc hg), specialCorr_eq_red hc hg, red_red_add, red_add_red]
    · rw [if_neg hi, specialTerm, if_neg hi, hx, Nat.add_zero]

/-- Element i after a raw iteration, bit for bit (42_iteration R120, R121). -/
theorem elementOf_iterateRaw {c : Config} {g : Gen} (hc : c.wf) (hg : GenOk c g) {i : Nat} (hi : i < c.n) :
    elementOf (iterateRaw c g).v i = red c.pReduce (sweepSum g i + specialTerm c g i) :=
  elementOf_specialV hc hg (by simp [hg.length]) (elementOf_iterSweep _ hg hi)

/-- Settles O23, by the closed form of the loop (`elementOf_iterLoop`) and the SPECIAL term. -/
theorem iterateRawClosedForm : Obligations.IterateRawClosedForm := by
  intro c g hc hl hv hcs
  have hg : GenOk c g := ⟨hl, hv, hcs⟩
  exact ⟨(iterateRaw_ok hc hg).length, fun i hi => elementOf_iterateRaw hc hg hi⟩

/-! ### The checksum and the running total (42_iteration R125, R126) -/

/-- Settles O24: the running total and the new vector have the same reduced sum. -/
theorem rawIterationRestoresExcl0 : Obligations.RawIterationRestoresExcl0 :=
  fun _ _ hc hl hv hcs => iterateRaw_excl0 hc ⟨hl, hv, hcs⟩

/-- Settles O25: the carries and the correction are residues, and N is at most 65535. -/
theorem runningTotalFits : Obligations.RunningTotalFits := by
  intro c g hc hl hv hcs
  have hg : GenOk c g := ⟨hl, hv, hcs⟩
  obtain ⟨hcount, hdomain⟩ := iterTotal_le hc hg
  have hn : c.n ≤ 65535 := hc.2.1
  have hwidth : c.n * mersBase < 2 ^ 77 := (Nat.mul_le_mul_right mersBase hn).trans_lt (by decide)
  exact ⟨iterSweep_residues _ hg, specialCorr_le hc hg, hcount, hwidth, hdomain⟩

/-! ### The recurrence matrix (42_iteration R127) -/

/-- The matrix past its first column: the 1 of the old checksum, the carries the element enters, and SPECIAL. -/
theorem recurrenceMatrix_succ (special i l : Nat) :
    recurrenceMatrix special i (l + 1) = 1 + (i - l) + if i = 2 ∧ l = 0 then special else 0 := by
  simp only [recurrenceMatrix, Nat.add_eq_right]
  congr 1
  split <;> omega

theorem recurrenceMatrix_zero (special i : Nat) : recurrenceMatrix special i 0 = 1 := by
  simp [recurrenceMatrix]

/-- Terms from i on have the factor i - l = 0. -/
theorem sum_sub_mul_eq (y : Nat → Nat) {i n : Nat} (h : i ≤ n) :
    ∑ l ∈ Finset.range n, (i - l) * y l = ∑ l ∈ Finset.range i, (i - l) * y l := by
  refine (Finset.sum_subset (Finset.range_subset_range.2 h) fun l _ hl => ?_).symm
  rw [Nat.sub_eq_zero_of_le (by simpa using hl), Nat.zero_mul]

/-- Only the entry A[2][1] has the SPECIAL term. -/
theorem sum_special_eq (special i : Nat) (y : Nat → Nat) {n : Nat} (h : 0 < n) :
    ∑ l ∈ Finset.range n, (if i = 2 ∧ l = 0 then special else 0) * y l = if i = 2 then special * y 0 else 0 := by
  rw [Finset.sum_eq_single_of_mem 0 (Finset.mem_range.2 h) fun l _ hl => by simp [hl]]
  simp [ite_mul]

/-- With the exact sum of V[1..N) as checksum, the exact numbers of a raw iteration are the matrix applied to V. -/
theorem matVec_eq {c : Config} {g : Gen} (hc : c.wf) (hg : GenOk c g) {i : Nat} (hi : i < c.n) :
    matVec c (elementOf g.v) i = sweepSum { g with cs := g.v.tail.sum } i + specialTerm c g i := by
  have hn : 8 ≤ c.n := hc.1
  obtain ⟨n, hcn⟩ : ∃ n, c.n = n + 1 := ⟨c.n - 1, by omega⟩
  have htail : ∑ l ∈ Finset.range n, elementOf g.v (l + 1) = g.v.tail.sum := by
    have hl : g.v.length = n + 1 := hg.length.trans hcn
    obtain ⟨x, v, hgv⟩ := List.exists_cons_of_length_eq_add_one hl
    obtain rfl : v.length = n := by simpa [hgv] using hl
    simpa [hgv] using sum_elementOf v
  have hcarries := sum_sub_mul_eq (fun l => elementOf g.v (l + 1)) (show i ≤ n by omega)
  have hspecial := sum_special_eq (specialValue c) i (fun l => elementOf g.v (l + 1)) (show 0 < n by omega)
  rw [matVec, hcn, Finset.sum_range_succ', recurrenceMatrix_zero]
  simp only [recurrenceMatrix_succ, Nat.add_mul, Finset.sum_add_distrib, Nat.one_mul, htail, hcarries, hspecial,
    sweepSum, specialTerm, Nat.zero_add]
  omega

/-- Settles O26: modulo p the exact number depends on the checksum's class only, and for the exact sum of V[1..N) it is
the matrix product (`matVec_eq`). -/
theorem rawIterationIsRecurrenceMatrix : Obligations.RawIterationIsRecurrenceMatrix := by
  intro c g hc hl hv hcs
  have hg : GenOk c g := ⟨hl, hv, hcs⟩
  have hn : 8 ≤ c.n := hc.1
  constructor
  · intro hsum i hi
    have hstart : sweepSum g i ≡ sweepSum { g with cs := g.v.tail.sum } i [MOD mersBase] :=
      (hsum.add_left _).add_right _
    rw [elementOf_iterateRaw hc hg hi, matVec_eq hc hg hi]
    exact (red_modEq _ _).trans (hstart.add_right _)
  · rw [elementOf_iterateRaw hc hg (by omega)]
    simpa [sweepSum, specialTerm] using red_modEq c.pReduce (elementOf g.v 0 + g.cs)

/-! ### The zero state and positivity (42_iteration R128) -/

section

variable {c : Config} {g : Gen}

theorem exists_sum_of_mem_iterateRaw (hc : c.wf) (hg : GenOk c g) {x : Nat} (hx : x ∈ (iterateRaw c g).v) :
    ∃ i, x = red c.pReduce (sweepSum g i + specialTerm c g i) := by
  obtain ⟨i, hi, rfl⟩ := exists_elementOf_of_mem hx
  rw [(iterateRaw_ok hc hg).length] at hi
  exact ⟨i, elementOf_iterateRaw hc hg hi⟩

/-- The zero state is a fixed point, in both modes. -/
theorem iterateRaw_zero (hc : c.wf) (hg : GenOk c g) (hv : ∀ x ∈ g.v, x = 0) (hcs : g.cs = 0) :
    iterateRaw c g = g := by
  have hvec : (iterateRaw c g).v = g.v := by
    refine ext_elementOf ((iterateRaw_ok hc hg).length.trans hg.length.symm) fun i hi => ?_
    rw [(iterateRaw_ok hc hg).length] at hi
    rw [elementOf_iterateRaw hc hg hi]
    simp [sweepSum, specialTerm, elementOf_eq_zero hv, hcs]
  have hsum : g.v.tail.sum = 0 := List.sum_eq_zero fun x hx => hv x (List.mem_of_mem_tail hx)
  have hcsum : (iterateRaw c g).cs = g.cs := by
    rw [iterateRaw_excl0 hc hg, hvec, csumExcl0_eq_red _ hg.elements, hsum, red_zero, hcs]
  exact congrArg₂ Gen.mk hvec hcsum

/-- Under LAZY a positive exact number has a positive reduction, and every exact number is at least V[0] + cs. -/
theorem iterateRaw_pos (hc : c.wf) (hg : GenOk c g) (hm : c.pReduce = .lazy) (hpos : 0 < elementOf g.v 0 + g.cs) :
    ∀ x ∈ (iterateRaw c g).v, 1 ≤ x := by
  intro x hx
  obtain ⟨i, rfl⟩ := exists_sum_of_mem_iterateRaw hc hg hx
  rw [hm, Nat.one_le_iff_ne_zero, Ne, red_lazy_eq_zero_iff, sweepSum]
  omega

/-- Under LAZY a checksum of either convention is 0 only where the elements it adds up are, so that V[0] + cs = 0 is left
to the zero vector. -/
theorem start_pos_of_csum (hv : residues g.v) (hcs : g.cs = csumExcl0 .lazy g.v ∨ g.cs = csumFull .lazy g.v)
    (hne : ∃ x ∈ g.v, x ≠ 0) : 0 < elementOf g.v 0 + g.cs := by
  rw [csumExcl0_eq_red _ hv, csumFull_eq_red _ hv] at hcs
  have hexcl0 := red_lazy_eq_zero_iff g.v.tail.sum
  have hfull := red_lazy_eq_zero_iff g.v.sum
  have hsum : g.v.sum = elementOf g.v 0 + g.v.tail.sum := by cases g.v <;> simp [elementOf]
  have hpos : g.v.sum ≠ 0 := by
    obtain ⟨x, hx, hx0⟩ := hne
    have := List.le_sum_of_mem hx
    omega
  omega

end

/-- Under CANONICAL the reduction is the remainder. -/
theorem red_canonical_eq_zero_iff (x : Nat) : red .canonical x = 0 ↔ red .canonical x ≡ 0 [MOD mersBase] := by
  simp [red, Nat.ModEq]

/-- Settles O27: every element is the reduction of an exact number that is at least V[0] + cs. -/
theorem zeroFixedPointAndPositivity : Obligations.ZeroFixedPointAndPositivity := by
  intro c g hc hl hv hcs
  have hg : GenOk c g := ⟨hl, hv, hcs⟩
  refine ⟨fun _ => iterateRaw_zero hc hg, iterateRaw_pos hc hg,
    fun hm hconv hne => iterateRaw_pos hc hg hm (start_pos_of_csum hv hconv hne), fun hm x hx => ?_⟩
  obtain ⟨i, rfl⟩ := exists_sum_of_mem_iterateRaw hc hg hx
  rw [hm]
  exact red_canonical_eq_zero_iff _

/-! ### ITERATE and ITERATE_N (42_iteration R122 to R124) -/

theorem iterateTimes_eq_iterate (c : Config) (k : Nat) (g : Gen) : iterateTimes c k g = (iterateRaw c)^[k] g := by
  induction k generalizing g with
  | zero => rfl
  | succ k ih => exact ih (iterateRaw c g)

section

variable (s : State)

/-- Storing the generator a state holds changes nothing. -/
theorem withGen_gen : s.withGen s.gen = s := by
  simp [State.withGen, State.gen, storedV, Function.comp_def]

theorem exec_iterate :
    exec .iterate s =
      if s.seeded = true then .next (completed (s.withGen ((iterateRaw s.cfg)^[s.nskip.toNat + 1] s.gen)))
      else .next (failed .notSeeded s) := by
  rw [← iterateTimes_eq_iterate]
  rfl

theorem exec_iterateN :
    exec .iterateN s =
      if s.seeded = true then
        if below32 s.arg0 then .next (completed (s.withGen ((iterateRaw s.cfg)^[s.arg0.toNat] s.gen)))
        else .next (failed .operandRange s)
      else .next (failed .notSeeded s) := by
  rw [← iterateTimes_eq_iterate]
  rfl

end

/-- Settles O28: the word, and the two branches of `exec_iterate`. -/
theorem iterateResult : Obligations.IterateResult :=
  ⟨by decide, fun s => ⟨fun h => (exec_iterate s).trans (if_pos h),
    fun h => (exec_iterate s).trans (if_neg (by simp [h]))⟩⟩

/-- Settles O29: the word, the branches of `exec_iterateN`, and for k = 0 and k = NSKIP + 1 what k iterations are. -/
theorem iterateNResult : Obligations.IterateNResult := by
  refine ⟨by decide, fun s => ?_⟩
  have hcompletes (hseed : s.seeded = true) (hk : below32 s.arg0) :
      exec .iterateN s = .next (completed (s.withGen ((iterateRaw s.cfg)^[s.arg0.toNat] s.gen))) := by
    rw [exec_iterateN, if_pos hseed, if_pos hk]
  refine ⟨hcompletes, fun hseed hk => ?_, fun hseed hk hlt => ?_, fun hseed => ?_, fun hseed hk => ?_⟩
  · rw [hcompletes hseed (by simp [hk]), hk]
    exact congrArg (Host.Outcome.next ∘ completed) (withGen_gen s)
  · rw [hcompletes hseed hlt, exec_iterate, if_pos hseed, hk]
  · rw [exec_iterateN, if_neg (by simp [hseed])]
  · rw [exec_iterateN, if_pos hseed, if_neg (Nat.not_lt.2 hk)]

end Sys2Proof.Proofs

namespace Sys2Proof.Proofs

open Sys2Proof Sys2Proof.Machine Sys2Proof.Laws

/-! # Proofs of the statements about output extraction (43_extraction) -/

/-! ### next_raw and the commands NEXT_RAW and NEXT_UNIFORM (43_extraction R140 to R142) -/

section

variable {s : State}

/-- iterate is NSKIP + 1 raw iterations (42_iteration R122). -/
theorem iterate_eq_iterate (s : State) (g : Gen) : s.iterate g = (iterateRaw s.cfg)^[s.nskip.toNat + 1] g :=
  iterateTimes_eq_iterate _ _ _

theorem afterNext_of_lt (h : s.cursor.toNat < s.cfg.n) : s.afterNext = { s with cursor := s.cursor + 1 } := if_pos h

theorem afterNext_of_le (h : s.cfg.n ≤ s.cursor.toNat) :
    s.afterNext = { s.withGen (s.iterate s.gen) with cursor := 2 } := if_neg (Nat.not_lt.2 h)

theorem nextResidue_of_lt (h : s.cursor.toNat < s.cfg.n) : s.nextResidue = s.gen.v.getD s.cursor.toNat 0 := if_pos h

theorem nextResidue_of_le (h : s.cfg.n ≤ s.cursor.toNat) : s.nextResidue = (s.iterate s.gen).v.getD 1 0 :=
  if_neg (Nat.not_lt.2 h)

theorem exec_nextRaw (h : s.seeded = true) :
    exec .nextRaw s = .next (completed { s.afterNext with result := BitVec.ofNat 64 s.nextResidue }) := if_pos h

theorem exec_nextUniform (h : s.seeded = true) :
    exec .nextUniform s = .next (completed { s.afterNext with result := uniformBits s.nextResidue }) := if_pos h

theorem exec_nextRaw_of_unseeded (h : s.seeded = false) : exec .nextRaw s = .next (failed .notSeeded s) :=
  if_neg (by simp [h])

theorem exec_nextUniform_of_unseeded (h : s.seeded = false) : exec .nextUniform s = .next (failed .notSeeded s) :=
  if_neg (by simp [h])

/-- An element of a vector of numbers, stored, is the stored element. -/
theorem storedV_getD (v : List Nat) (i : Nat) : (storedV v).getD i 0 = BitVec.ofNat 64 (v.getD i 0) :=
  List.getD_map (f := BitVec.ofNat 64) (d := 0) ..

theorem nextResidue_le (h : EngineInv s) : s.nextResidue ≤ mersBase := by
  have hg := genOk_of_inv h
  unfold State.nextResidue
  split
  · exact getD_le_of_residues hg.elements _
  · exact getD_le_of_residues (iterate_ok h.cfgLegal hg).elements _

/-- A residue fits in a register. -/
theorem toNat_ofNat_of_le {x : Nat} (h : x ≤ mersBase) : (BitVec.ofNat 64 x).toNat = x := by
  rw [mersBase_eq] at h
  rw [BitVec.toNat_ofNat, Nat.mod_eq_of_lt (by omega)]

end

/-- Settles O30: next_raw's two paths, and the seed check. -/
theorem nextRawResult : Obligations.NextRawResult := by
  refine ⟨by decide, fun s => ⟨fun hseed hlt => ?_, fun hseed hle => ?_, exec_nextRaw_of_unseeded⟩⟩
  · rw [exec_nextRaw hseed, afterNext_of_lt hlt, nextResidue_of_lt hlt, ← storedV_getD, storedV_gen]
  · rw [exec_nextRaw hseed, afterNext_of_le hle, nextResidue_of_le hle, iterate_eq_iterate, ← storedV_getD]
    rfl

/-- Settles O31: both commands complete with next_raw's state, and RESULT holds its residue unchanged, since a residue
fits in 64 bits. -/
theorem nextUniformResult : Obligations.NextUniformResult := by
  refine ⟨by decide, fun s h hseed => ⟨_, exec_nextRaw hseed, ?_⟩, fun s => exec_nextUniform_of_unseeded,
    by decide, by decide, by decide, by decide⟩
  rw [exec_nextUniform hseed, completed_result, toNat_ofNat_of_le (nextResidue_le h)]
  rfl

end Sys2Proof.Proofs

namespace Sys2Proof.Proofs

open Sys2Proof Sys2Proof.Machine Sys2Proof.Laws

/-! ### The conversion to binary64 (43_extraction R144, R145) -/

/-- The quotient x / u rounded to the nearest integer, ties to even: the significand of fp64 for the unit u. -/
def roundedQuotient (x u : Nat) : Nat :=
  if u < 2 * (x % u) ∨ (2 * (x % u) = u ∧ x / u % 2 = 1) then x / u + 1 else x / u

theorem roundedQuotient_cases (x u : Nat) :
    (roundedQuotient x u = x / u + 1 ∧ (u < 2 * (x % u) ∨ (2 * (x % u) = u ∧ x / u % 2 = 1))) ∨
    (roundedQuotient x u = x / u ∧ (2 * (x % u) < u ∨ (2 * (x % u) = u ∧ x / u % 2 = 0))) := by
  unfold roundedQuotient
  split <;> omega

/-- A rounded quotient is at most half a unit away, and even at exactly half. -/
theorem roundedQuotient_nearest {x u : Nat} (hu : 0 < u) :
    2 * |((roundedQuotient x u * u : Nat) : ℤ) - (x : ℤ)| ≤ u ∧
    (2 * |((roundedQuotient x u * u : Nat) : ℤ) - (x : ℤ)| = u → roundedQuotient x u % 2 = 0) := by
  have hx : x / u * u + x % u = x := Nat.div_add_mod' x u
  have hlt : x % u < u := Nat.mod_lt x hu
  rcases roundedQuotient_cases x u with ⟨hq, hr⟩ | ⟨hq, hr⟩
  · have habove : |((roundedQuotient x u * u : Nat) : ℤ) - (x : ℤ)| = u - (x % u : Nat) := by
      rw [hq, Nat.succ_mul, abs_of_nonneg] <;> omega
    omega
  · have hbelow : |((roundedQuotient x u * u : Nat) : ℤ) - (x : ℤ)| = (x % u : Nat) := by
      rw [hq, abs_of_nonpos] <;> omega
    omega

theorem fp64_of_lt {x : Nat} (h : x < 2 ^ 53) : fp64 x = x := if_pos h

theorem fp64_of_ge {x : Nat} (h : 2 ^ 53 ≤ x) :
    fp64 x = roundedQuotient x (2 ^ (Nat.log2 x - 52)) * 2 ^ (Nat.log2 x - 52) := by
  rw [fp64, if_neg (Nat.not_lt.2 h)]
  exact (ite_mul ..).symm

/-- The significand of a number from 2^53 on has 53 bits, or is 2^53 where rounding carries out of them. -/
theorem significand_bounds {x : Nat} (h : 2 ^ 53 ≤ x) :
    2 ^ 52 ≤ roundedQuotient x (2 ^ (Nat.log2 x - 52)) ∧ roundedQuotient x (2 ^ (Nat.log2 x - 52)) ≤ 2 ^ 53 := by
  have hx : x ≠ 0 := by omega
  have hlog : 53 ≤ Nat.log2 x := (Nat.le_log2 hx).2 h
  have hlow : 2 ^ 52 ≤ x / 2 ^ (Nat.log2 x - 52) := by
    rw [Nat.le_div_iff_mul_le (by positivity), ← pow_add, Nat.add_sub_cancel' (by omega)]
    exact Nat.log2_self_le hx
  have hhigh : x / 2 ^ (Nat.log2 x - 52) < 2 ^ 53 := by
    rw [Nat.div_lt_iff_lt_mul (by positivity), ← pow_add, show 53 + (Nat.log2 x - 52) = Nat.log2 x + 1 by omega]
    exact Nat.lt_log2_self
  rcases roundedQuotient_cases x (2 ^ (Nat.log2 x - 52)) with ⟨hq, -⟩ | ⟨hq, -⟩ <;> omega

/-- A residue has at most 61 bits, so its unit in the last place is at most 256. -/
theorem log2_le_sixty {x : Nat} (hx : x ≤ mersBase) (h : 2 ^ 53 ≤ x) : Nat.log2 x ≤ 60 := by
  rw [mersBase_eq] at hx
  exact Nat.lt_succ_iff.1 ((Nat.log2_lt (by omega)).2 (by omega))

theorem fp64_le {x : Nat} (hx : x ≤ mersBase) : fp64 x ≤ 2 ^ 61 := by
  rcases Nat.lt_or_ge x (2 ^ 53) with h | h
  · rw [fp64_of_lt h]; omega
  · have hlog := log2_le_sixty hx h
    calc fp64 x = roundedQuotient x (2 ^ (Nat.log2 x - 52)) * 2 ^ (Nat.log2 x - 52) := fp64_of_ge h
      _ ≤ 2 ^ 53 * 2 ^ 8 := Nat.mul_le_mul (significand_bounds h).2 (Nat.pow_le_pow_right (by decide) (by omega))
      _ = 2 ^ 61 := by decide

theorem fp64_eq_zero_iff (x : Nat) : fp64 x = 0 ↔ x = 0 := by
  rcases Nat.lt_or_ge x (2 ^ 53) with h | h
  · rw [fp64_of_lt h]
  · have hpos : 0 < fp64 x := by
      rw [fp64_of_ge h]
      exact Nat.mul_pos (lt_of_lt_of_le (by decide) (significand_bounds h).1) (by positivity)
    omega

/-- Only the last half unit below 2^61 is rounded up to it (43_extraction R145). -/
theorem fp64_eq_two_pow_iff {x : Nat} (hx : x ≤ mersBase) : fp64 x = 2 ^ 61 ↔ 2 ^ 61 - 128 ≤ x := by
  rcases Nat.lt_or_ge x (2 ^ 53) with h | h
  · rw [fp64_of_lt h]; omega
  · have hlog := log2_le_sixty hx h
    rw [mersBase_eq] at hx
    rcases Nat.lt_or_ge x (2 ^ 60) with h60 | h60
    · have hlt : Nat.log2 x < 60 := (Nat.log2_lt (by omega)).2 h60
      have hle : fp64 x ≤ 2 ^ 60 :=
        calc fp64 x = roundedQuotient x (2 ^ (Nat.log2 x - 52)) * 2 ^ (Nat.log2 x - 52) := fp64_of_ge h
          _ ≤ 2 ^ 53 * 2 ^ 7 := Nat.mul_le_mul (significand_bounds h).2 (Nat.pow_le_pow_right (by decide) (by omega))
          _ = 2 ^ 60 := by decide
      omega
    · have heq : Nat.log2 x = 60 := le_antisymm hlog ((Nat.le_log2 (by omega)).2 h60)
      rw [fp64_of_ge h, heq]
      have hcases := roundedQuotient_cases x 256
      show roundedQuotient x 256 * 256 = 2 ^ 61 ↔ _
      omega

/-- A double has at most 53 significant bits: fp64 x is exact in the encoding (43_extraction R144). -/
theorem two_pow_log2_dvd_fp64 (x : Nat) : 2 ^ Nat.log2 (fp64 x) ∣ fp64 x * 2 ^ 52 := by
  rcases Nat.lt_or_ge x (2 ^ 53) with h | h
  · rw [fp64_of_lt h]
    refine Dvd.dvd.mul_left (pow_dvd_pow 2 ?_) x
    rcases Nat.eq_zero_or_pos x with rfl | hpos
    · decide
    · exact Nat.lt_succ_iff.1 ((Nat.log2_lt hpos.ne').2 h)
  · obtain ⟨hlow, hhigh⟩ := significand_bounds h
    rw [fp64_of_ge h]
    generalize roundedQuotient x (2 ^ (Nat.log2 x - 52)) = m at hlow hhigh
    generalize Nat.log2 x - 52 = e
    rcases hhigh.lt_or_eq with hlt | rfl
    · have hlog : Nat.log2 (m * 2 ^ e) ≤ e + 52 := by
        refine Nat.lt_succ_iff.1 ((Nat.log2_lt (Nat.mul_ne_zero (by omega) (by positivity))).2 ?_)
        rw [show (e + 52).succ = 53 + e by omega, pow_add]
        exact Nat.mul_lt_mul_of_pos_right hlt (by positivity)
      rw [Nat.mul_assoc, ← pow_add]
      exact Dvd.dvd.mul_left (pow_dvd_pow 2 hlog) m
    · rw [← pow_add, Nat.log2_two_pow]
      exact Dvd.intro _ rfl

/-- The value of a word with sign 0, the biased exponent e of a normal number and the fraction m. -/
theorem binary64Value_of_fields {e m : Nat} (he : 0 < e) (he' : e < 2 ^ 11) (hm : m < 2 ^ 52) :
    binary64Value (BitVec.ofNat 64 (e * 2 ^ 52 + m)) = (2 ^ 52 + m : ℚ) * 2 ^ ((e : ℤ) - 1075) := by
  have hsign : (BitVec.ofNat 64 (e * 2 ^ 52 + m)).getLsbD 63 = false := by
    rw [BitVec.getLsbD_ofNat, Nat.testBit_lt_two_pow (by omega), Bool.and_false]
  have hexp : ((BitVec.ofNat 64 (e * 2 ^ 52 + m)).extractLsb' 52 11).toNat = e := by
    rw [BitVec.extractLsb'_toNat, BitVec.toNat_ofNat, Nat.shiftRight_eq_div_pow]
    omega
  have hfrac : ((BitVec.ofNat 64 (e * 2 ^ 52 + m)).extractLsb' 0 52).toNat = m := by
    rw [BitVec.extractLsb'_toNat, BitVec.toNat_ofNat, Nat.shiftRight_zero]
    omega
  have hnormal : (BitVec.ofNat 64 (e * 2 ^ 52 + m)).extractLsb' 52 11 ≠ 0 := fun h => by
    rw [h] at hexp
    exact he.ne hexp
  rw [binary64Value, hsign, if_neg Bool.false_ne_true, if_neg hnormal, hexp, hfrac, one_mul]

/-- The encoding of an exact f · 2^−61 has this value (43_extraction R144): its significand c, of 53 bits, is f moved by
52 − log2 f places, which the exponent takes back. -/
theorem binary64Value_scaledBits {f : Nat} (hf : f ≤ 2 ^ 61) (hexact : 2 ^ Nat.log2 f ∣ f * 2 ^ 52) :
    binary64Value (scaledBits f) = (f : ℚ) * 2 ^ (-61 : ℤ) := by
  rcases Nat.eq_zero_or_pos f with rfl | hpos
  · simp [scaledBits, binary64Value]
  have hlog : Nat.log2 f ≤ 61 := Nat.lt_succ_iff.1 ((Nat.log2_lt hpos.ne').2 (by omega))
  have hself := Nat.log2_self_le hpos.ne'
  have hlt := Nat.lt_log2_self (n := f)
  obtain ⟨c, hc⟩ := hexact
  have hdiv : f * 2 ^ 52 / 2 ^ Nat.log2 f = c := by rw [hc, Nat.mul_div_cancel_left _ (by positivity)]
  have hlow : 2 ^ 52 ≤ c := hdiv ▸ (Nat.le_div_iff_mul_le (by positivity)).2 (by omega)
  have hhigh : c < 2 ^ 53 := hdiv ▸ (Nat.div_lt_iff_lt_mul (by positivity)).2 (by rw [pow_succ] at hlt; omega)
  obtain ⟨m, rfl⟩ := Nat.exists_eq_add_of_le hlow
  have hcast : (2 : ℚ) ^ Nat.log2 f * (2 ^ 52 + m) = f * 2 ^ 52 := by exact_mod_cast hc.symm
  rw [scaledBits, if_neg hpos.ne', hdiv, Nat.add_sub_cancel_left,
    binary64Value_of_fields (by omega) (by omega) (by omega)]
  have hexp : ((Nat.log2 f + 1023 - 61 : Nat) : ℤ) - 1075 = Nat.log2 f + (-113) := by omega
  calc (2 ^ 52 + m : ℚ) * 2 ^ (((Nat.log2 f + 1023 - 61 : Nat) : ℤ) - 1075)
      = 2 ^ Nat.log2 f * (2 ^ 52 + m) * 2 ^ (-113 : ℤ) := by
        rw [hexp, zpow_add₀ two_ne_zero, zpow_natCast]; ring
    _ = f * 2 ^ (-61 : ℤ) := by rw [hcast, mul_assoc]; norm_num

/-- u(x) = fp64(x) · 2^−61 (43_extraction R144). -/
theorem binary64Value_uniformBits {x : Nat} (hx : x ≤ mersBase) :
    binary64Value (uniformBits x) = (fp64 x : ℚ) * 2 ^ (-61 : ℤ) :=
  binary64Value_scaledBits (fp64_le hx) (two_pow_log2_dvd_fp64 x)

/-- Settles O32: the encoding's value is fp64 x scaled, and fp64 x the rounded quotient by the unit, times the unit. -/
theorem uniformConversionRounds : Obligations.UniformConversionRounds := by
  refine fun x hx => ⟨fun h => ?_, fun h => ?_⟩
  · rw [binary64Value_uniformBits hx, fp64_of_lt h]
  · obtain ⟨hlow, hhigh⟩ := significand_bounds h
    obtain ⟨hnear, heven⟩ := roundedQuotient_nearest (x := x) (Nat.two_pow_pos (Nat.log2 x - 52))
    push_cast at hnear heven
    refine ⟨_, hlow, hhigh, ?_, ?_, ?_⟩
    · rw [binary64Value_uniformBits hx, fp64_of_ge h]
    · exact_mod_cast hnear
    · exact_mod_cast heven

/-- A natural number scaled by 2^-61 is 1 for 2^61. -/
theorem scaled_eq_one_iff (f : Nat) : (f : ℚ) * 2 ^ (-61 : ℤ) = 1 ↔ f = 2 ^ 61 := by
  rw [zpow_neg, mul_inv_eq_one₀ (by positivity)]
  exact_mod_cast Iff.rfl

/-- Settles O33: each clause is the one about fp64 x in [0, 2^61], scaled; the encoding of 1.0 is scaledBits of 2^61. -/
theorem uniformRange : Obligations.UniformRange := by
  intro x hx
  have hval := binary64Value_uniformBits hx
  have hle : (fp64 x : ℚ) ≤ 2 ^ (61 : ℤ) := by exact_mod_cast fp64_le hx
  have hone : binary64Value (uniformBits x) = 1 ↔ 2 ^ 61 - 128 ≤ x := by
    rw [hval, scaled_eq_one_iff, fp64_eq_two_pow_iff hx]
  have henc : scaledBits (2 ^ 61) = 0x3FF0000000000000 := by decide
  refine ⟨?_, ?_, ?_, hone, fun h => ?_, fun h => ?_⟩
  · rw [hval]; positivity
  · rw [hval, zpow_neg]
    exact mul_inv_le_one_of_le₀ hle (by positivity)
  · rw [hval, mul_eq_zero, or_iff_left (by positivity), Nat.cast_eq_zero, fp64_eq_zero_iff]
  · rw [← hone, h, ← henc, binary64Value_scaledBits le_rfl (by decide), scaled_eq_one_iff]
  · rw [uniformBits, (fp64_eq_two_pow_iff hx).2 h, henc]

end Sys2Proof.Proofs

namespace Sys2Proof.Proofs

open Sys2Proof Sys2Proof.Machine Sys2Proof.Laws

/-! ### FILL_UNIFORM: the residue of every slot, and the generator it leaves (43_extraction R143) -/

section

variable {v w : List Nat} {i k : Nat}

theorem elementOf_append (v w : List Nat) (i : Nat) :
    elementOf (v ++ w) i = if i < v.length then elementOf v i else elementOf w (i - v.length) := by
  unfold elementOf
  split
  · next h => exact List.getD_append _ _ _ _ h
  · next h => exact List.getD_append_right _ _ _ _ (Nat.not_lt.1 h)

theorem elementOf_take (v : List Nat) (h : i < k) : elementOf (v.take k) i = elementOf v i := by
  rw [elementOf, elementOf, List.getD_eq_getElem?_getD, List.getD_eq_getElem?_getD, List.getElem?_take_of_lt h]

theorem elementOf_tail (v : List Nat) (i : Nat) : elementOf v.tail i = elementOf v (i + 1) := by
  cases v <;> rfl

/-- An element of the numbers in V is the number in the element of V. -/
theorem elementOf_gen (s : State) (i : Nat) : elementOf s.gen.v i = (s.v.getD i 0).toNat :=
  List.getD_map (f := BitVec.toNat) (d := 0) ..

/-- An element of an encoded list of residues is the encoding of the element; beyond the end both are 0. -/
theorem getD_map_uniformBits (v : List Nat) (i : Nat) : (v.map uniformBits).getD i 0 = uniformBits (elementOf v i) :=
  List.getD_map (f := uniformBits) (d := 0) ..

end

section

variable {s : State} {g : Gen}

@[simp] theorem iterateRaw_length (c : Config) (g : Gen) : (iterateRaw c g).v.length = g.v.length := by
  simp [iterateRaw]

theorem iterated_length {f : Gen → Gen} (hf : ∀ g, (f g).v.length = g.v.length) (k : Nat) (g : Gen) :
    (f^[k] g).v.length = g.v.length := by
  induction k generalizing g with
  | zero => rfl
  | succ k ih => exact (ih (f g)).trans (hf g)

@[simp] theorem iterate_length (s : State) (g : Gen) : (s.iterate g).v.length = g.v.length := by
  rw [iterate_eq_iterate, iterated_length (iterateRaw_length s.cfg)]

/-- j iterates are (NSKIP + 1) · j raw iterations (42_iteration R122). -/
theorem iterate_iterate (s : State) (j : Nat) (g : Gen) :
    s.iterate^[j] g = (iterateRaw s.cfg)^[(s.nskip.toNat + 1) * j] g := by
  rw [Function.iterate_mul, ← funext (iterate_eq_iterate s)]

/-- Each full block takes one iterate. -/
theorem fillBlocks_snd (s : State) (k : Nat) (g : Gen) : (s.fillBlocks k g).2 = s.iterate^[k] g := by
  induction k generalizing g with
  | zero => rfl
  | succ k ih => exact ih (s.iterate g)

/-- Each full block holds N − 1 elements, residues or not. -/
theorem fillBlocks_length_of_length (k : Nat) (hg : g.v.length = s.cfg.n) :
    (s.fillBlocks k g).1.length = k * (s.cfg.n - 1) := by
  induction k generalizing g with
  | zero => simp [State.fillBlocks]
  | succ k ih =>
    have hi : (s.iterate g).v.length = s.cfg.n := (iterate_length s g).trans hg
    rw [State.fillBlocks, List.length_append, List.length_tail, hi, ih hi, Nat.succ_mul, Nat.add_comm]

/-- The element i of the full blocks is in block i / (N − 1), after one iterate more, and at i mod (N − 1) past V[0]. -/
theorem elementOf_fillBlocks {i k : Nat} (hg : g.v.length = s.cfg.n) (hi : i < k * (s.cfg.n - 1)) :
    elementOf (s.fillBlocks k g).1 i =
      elementOf (s.iterate^[i / (s.cfg.n - 1) + 1] g).v (i % (s.cfg.n - 1) + 1) := by
  induction k generalizing g i with
  | zero => omega
  | succ k ih =>
    have hl : (s.iterate g).v.length = s.cfg.n := (iterate_length s g).trans hg
    rw [State.fillBlocks, elementOf_append, List.length_tail, hl, Function.iterate_succ_apply]
    split
    · next h => rw [elementOf_tail, Nat.div_eq_of_lt h, Nat.mod_eq_of_lt h]; rfl
    · next h =>
      obtain ⟨i, rfl⟩ := Nat.exists_eq_add_of_le' (Nat.not_lt.1 h)
      have hpos : 0 < s.cfg.n - 1 := Nat.pos_of_ne_zero fun h0 => by simp [h0] at hi
      rw [Nat.succ_mul] at hi
      rw [Nat.add_sub_cancel, ih hl (by omega), Nat.add_div_right _ hpos, Nat.add_mod_right]

/-- The generator FILL_UNIFORM leaves has gone through one iterate for each block (43_extraction R143). -/
theorem fillGen_eq (s : State) :
    s.fillGen = s.iterate^[if s.fillRem = 0 then s.fillQuot else s.fillQuot + 1] s.gen := by
  simp only [State.fillGen, fillBlocks_snd]
  split
  · rfl
  · exact (Function.iterate_succ_apply' ..).symm

variable (hc : s.cfg.wf) (hl : s.v.length = s.cfg.n)
include hl

theorem gen_length : s.gen.v.length = s.cfg.n := by simpa [State.gen] using hl

theorem fullBlocks_length : (s.fillBlocks s.fillQuot s.gen).1.length = s.fillQuot * (s.cfg.n - 1) :=
  fillBlocks_length_of_length _ (gen_length hl)

theorem fillGen_length : s.fillGen.v.length = s.cfg.n := by
  rw [fillGen_eq, iterated_length (iterate_length s), gen_length hl]

include hc

theorem fillResidues_length : s.fillResidues.length = s.arg0.toNat := by
  have hr := fillRem_lt hc
  rw [State.fillResidues, List.length_append, fullBlocks_length hl, List.length_take, fillGen_length hl,
    Nat.min_eq_left hr.le, fillQuot_mul_add_fillRem]

/-- The residue of slot k: from its full block past V[0], or from the partial block with V[0] (43_extraction R143). -/
theorem elementOf_fillResidues {k : Nat} (hk : k < s.arg0.toNat) :
    elementOf s.fillResidues k = elementOf (s.iterate^[k / (s.cfg.n - 1) + 1] s.gen).v
      (if k < s.fillQuot * (s.cfg.n - 1) then k % (s.cfg.n - 1) + 1 else k - s.fillQuot * (s.cfg.n - 1)) := by
  have hsum := fillQuot_mul_add_fillRem s
  have hn : 8 ≤ s.cfg.n := hc.1
  have hr : s.fillRem < s.cfg.n - 1 := Nat.mod_lt _ (by omega)
  rw [State.fillResidues, elementOf_append, fullBlocks_length hl]
  split
  · next h => exact elementOf_fillBlocks (gen_length hl) h
  · next h =>
    have hblock : k / (s.cfg.n - 1) = s.fillQuot :=
      Nat.div_eq_of_lt_le (by omega) (by rw [Nat.succ_mul]; omega)
    rw [elementOf_take _ (by omega), fillGen_eq, if_neg (by omega), hblock]

/-- What FILL_UNIFORM leaves in slot k: the encoding of its residue, or memory's own word where a racing host write won
(43_extraction R143, 20_memory R60). -/
theorem readWord_fillWords (hm : s.mem.wf) {k : Nat} (hk : k < s.arg0.toNat) :
    (s.portWrites s.arg1.toNat s.fillWords).readWord (s.arg1.toNat + 8 * k) =
      if s.arg1.toNat + 8 * k ∈ s.kept then s.mem.readWord (s.arg1.toNat + 8 * k)
      else uniformBits (elementOf s.fillResidues k) := by
  have hlt : k < s.fillResidues.length := (fillResidues_length hc hl).symm ▸ hk
  refine (portWrites_spec s hm _ _).2.1 k _ ?_
  rw [State.fillWords, List.getElem?_map, List.getElem?_eq_getElem hlt, elementOf_eq_getElem hlt]
  rfl

theorem readByte_fillWords (hm : s.mem.wf) {b : Nat}
    (hb : b < s.arg1.toNat ∨ s.arg1.toNat + 8 * s.arg0.toNat ≤ b) :
    (s.portWrites s.arg1.toNat s.fillWords).readByte b = s.mem.readByte b := by
  refine (portWrites_spec s hm _ _).2.2 b ?_
  rwa [State.fillWords, List.length_map, fillResidues_length hc hl]

end

/-- Settles O34: the completion's generator, slots and untouched bytes, and the three checks in order. -/
theorem fillUniformResult : Obligations.FillUniformResult := by
  refine ⟨by decide, fun s hc hl hm => ⟨fun hseed hcount haddr => ?_, fun hseed => ?_, fun hseed hcount => ?_,
    fun hseed hcount hpos hbad => ?_⟩⟩
  · refine ⟨_, exec_fillUniform_of_checks hseed hcount haddr, ?_, fun k hk => ?_, fun b => readByte_fillWords hc hl hm⟩
    · simp only [← iterate_iterate, fillGen_eq]
      rfl
    · simp only [← iterate_iterate]
      exact elementOf_fillResidues hc hl hk ▸ readWord_fillWords hc hl hm hk
  · exact if_neg (by simp [hseed])
  · exact (if_pos hseed).trans (if_neg (Nat.not_lt.2 hcount))
  · have hfail : ¬ s.fillAddressOk := by rintro (h0 | ⟨h8, hsize⟩) <;> omega
    exact (if_pos hseed).trans ((if_pos hcount).trans (if_neg hfail))

end Sys2Proof.Proofs

namespace Sys2Proof.Proofs

open Sys2Proof Sys2Proof.Machine Sys2Proof.Laws

/-! ### NEXT_UNIFORM commands in a row, and their agreement with FILL_UNIFORM (43_extraction R146) -/

/-- The state u is one of the engine s with the generator g and CURSOR c: same configuration and NSKIP, seeded. -/
structure HoldsGen (s : State) (g : Gen) (c : Nat) (u : State) : Prop where
  inv : EngineInv u
  cfg : u.cfg = s.cfg
  nskip : u.nskip = s.nskip
  seeded : u.seeded = true
  gen : u.gen = g
  cursor : u.cursor.toNat = c

/-- NEXT_UNIFORM commands from a state to a state that return the encodings of the listed residues. -/
inductive Draws : State → List Nat → State → Prop
  | nil (u : State) : Draws u [] u
  | cons {u t w : State} {x : Nat} {xs : List Nat} (hexec : exec .nextUniform u = .next t)
      (hresult : t.result = uniformBits x) (hrest : Draws t xs w) : Draws u (x :: xs) w

theorem Draws.append {u t w : State} {xs ys : List Nat} (h : Draws u xs t) (h' : Draws t ys w) :
    Draws u (xs ++ ys) w := by
  induction h with
  | nil => exact h'
  | cons hexec hresult _ ih => exact .cons hexec hresult (ih h')

theorem Draws.uniformDraws_eq {u w : State} {xs : List Nat} (h : Draws u xs w) :
    uniformDraws xs.length u = some (xs.map uniformBits, w) := by
  induction h with
  | nil => rfl
  | cons hexec hresult _ ih => simp [uniformDraws, hexec, hresult, ih]

section

variable {s u : State} {g : Gen} {c k : Nat}

theorem HoldsGen.genOk (h : HoldsGen s g c u) : GenOk s.cfg g := h.gen ▸ h.cfg ▸ genOk_of_inv h.inv

theorem HoldsGen.iterate_eq (h : HoldsGen s g c u) : u.iterate u.gen = s.iterate g := by
  rw [State.iterate, h.cfg, h.nskip, h.gen, State.iterate]

/-- While CURSOR is below N a draw returns the element at CURSOR and goes on to the next (43_extraction R140). -/
theorem exists_draw_of_lt (h : HoldsGen s g c u) (hc : c < s.cfg.n) :
    ∃ t, exec .nextUniform u = .next t ∧ t.result = uniformBits (elementOf g.v c) ∧ HoldsGen s g (c + 1) t := by
  have hlt : u.cursor.toNat < u.cfg.n := by rwa [h.cursor, h.cfg]
  have hn : u.cfg.n ≤ 65535 := h.inv.cfgLegal.2.1
  have hcursor : (u.cursor + 1).toNat = c + 1 := h.cursor ▸ BitVec.toNat_add_of_lt (by simp; omega)
  have hexec := exec_nextUniform h.seeded
  rw [afterNext_of_lt hlt, nextResidue_of_lt hlt, h.gen, h.cursor] at hexec
  exact ⟨_, hexec, rfl, exec_inv h.inv hexec, h.cfg, h.nskip, h.seeded, h.gen, hcursor⟩

/-- At CURSOR = N a draw iterates, returns the new V[1] and goes on at 2 (43_extraction R140). -/
theorem exists_draw_of_refill (h : HoldsGen s g s.cfg.n u) :
    ∃ t, exec .nextUniform u = .next t ∧ t.result = uniformBits (elementOf (s.iterate g).v 1) ∧
      HoldsGen s (s.iterate g) 2 t := by
  have hle : u.cfg.n ≤ u.cursor.toNat := by rw [h.cursor, h.cfg]
  have hok : GenOk s.cfg (s.iterate g) := iterate_ok (h.cfg ▸ h.inv.cfgLegal) h.genOk
  have hexec := exec_nextUniform h.seeded
  rw [afterNext_of_le hle, nextResidue_of_le hle, h.iterate_eq] at hexec
  exact ⟨_, hexec, rfl, exec_inv h.inv hexec, h.cfg, h.nskip, h.seeded, gen_of_stored hok rfl rfl, rfl⟩

/-- k draws that stay inside the current vector return its next k elements. -/
theorem exists_draws_of_current (h : HoldsGen s g c u) (hk : c + k ≤ s.cfg.n) :
    ∃ t, Draws u ((g.v.drop c).take k) t ∧ HoldsGen s g (c + k) t := by
  induction k generalizing c u with
  | zero => exact ⟨u, .nil u, h⟩
  | succ k ih =>
    obtain ⟨t, hexec, hresult, ht⟩ := exists_draw_of_lt h (by omega)
    obtain ⟨w, hdraws, hw⟩ := ih ht (by omega)
    have hlt : c < g.v.length := by rw [h.genOk.length]; omega
    rw [List.drop_eq_getElem_cons hlt, List.take_succ_cons, ← elementOf_eq_getElem hlt]
    exact ⟨w, .cons hexec hresult hdraws, (Nat.add_right_comm c 1 k) ▸ hw⟩

/-- From CURSOR = N, 1 to N − 1 draws take one iterate and return the new vector's elements from V[1] on. -/
theorem exists_draws_of_refill (h : HoldsGen s g s.cfg.n u) (hpos : 0 < k) (hk : k < s.cfg.n) :
    ∃ t, Draws u ((s.iterate g).v.tail.take k) t ∧ HoldsGen s (s.iterate g) (k + 1) t := by
  obtain ⟨k, rfl⟩ := Nat.exists_eq_succ_of_ne_zero hpos.ne'
  obtain ⟨t, hexec, hresult, ht⟩ := exists_draw_of_refill h
  obtain ⟨w, hdraws, hw⟩ := exists_draws_of_current (k := k) ht (by omega)
  have hlt : 1 < (s.iterate g).v.length := by rw [iterate_length, h.genOk.length]; omega
  rw [← List.drop_one, List.drop_eq_getElem_cons hlt, List.take_succ_cons, ← elementOf_eq_getElem hlt]
  exact ⟨w, .cons hexec hresult hdraws, (show k.succ + 1 = 2 + k by omega) ▸ hw⟩

/-- From CURSOR = N, draws return the full blocks of FILL_UNIFORM and end at CURSOR = N. -/
theorem exists_draws_fillBlocks (h : HoldsGen s g s.cfg.n u) (q : Nat) :
    ∃ t, Draws u (s.fillBlocks q g).1 t ∧ HoldsGen s (s.fillBlocks q g).2 s.cfg.n t := by
  induction q generalizing g u with
  | zero => exact ⟨u, .nil u, h⟩
  | succ q ih =>
    have hn : 8 ≤ s.cfg.n := h.cfg ▸ h.inv.cfgLegal.1
    obtain ⟨t, hblock, ht⟩ := exists_draws_of_refill (k := s.cfg.n - 1) h (by omega) (by omega)
    rw [List.take_of_length_le (by rw [List.length_tail, iterate_length, h.genOk.length])] at hblock
    rw [Nat.sub_add_cancel (by omega)] at ht
    obtain ⟨w, hdraws, hw⟩ := ih ht
    exact ⟨w, hblock.append hdraws, hw⟩

/-- The residues n draws return from CURSOR = N: the fill's full blocks, and r elements of its last vector from V[1] on
(43_extraction R146). -/
def drawnResidues (s : State) : List Nat :=
  (s.fillBlocks s.fillQuot s.gen).1 ++ s.fillGen.v.tail.take s.fillRem

/-- From CURSOR = N, as many draws as FILL_UNIFORM has slots return its full blocks and, of the last vector, the
elements from V[1] on; both leave the same generator (43_extraction R146). -/
theorem exists_draws_fill (h : HoldsGen s s.gen s.cfg.n s) :
    ∃ t, Draws s (drawnResidues s) t ∧
      HoldsGen s s.fillGen (if s.fillRem = 0 then s.cfg.n else s.fillRem + 1) t := by
  obtain ⟨t, hblocks, ht⟩ := exists_draws_fillBlocks h s.fillQuot
  unfold drawnResidues State.fillGen
  split
  · next hr => exact ⟨t, by simpa [hr] using hblocks, ht⟩
  · next hr =>
    obtain ⟨w, hrest, hw⟩ := exists_draws_of_refill ht (Nat.pos_of_ne_zero hr) (fillRem_lt h.inv.cfgLegal)
    exact ⟨w, hblocks.append hrest, hw⟩

end

theorem fillCursor_toNat {s : State} (hc : s.cfg.wf) :
    s.fillCursor.toNat = if s.fillRem = 0 then s.cfg.n else s.fillRem := by
  have hn : s.cfg.n ≤ 65535 := hc.2.1
  have hr := fillRem_lt hc
  rw [State.fillCursor, BitVec.toNat_ofNat, Nat.mod_eq_of_lt]
  split <;> omega

section

variable {s : State}

/-- In the full blocks the fill and the draws agree. -/
theorem elementOf_fullBlocks {k : Nat} (hl : s.v.length = s.cfg.n) (hk : k < s.fillQuot * (s.cfg.n - 1)) :
    elementOf s.fillResidues k = elementOf (drawnResidues s) k := by
  rw [← fullBlocks_length hl] at hk
  rw [State.fillResidues, drawnResidues, elementOf_append, elementOf_append, if_pos hk, if_pos hk]

/-- In the partial block the fill is one element behind the draws. -/
theorem elementOf_partialBlock {j : Nat} (hl : s.v.length = s.cfg.n) (hj : j < s.fillRem) :
    elementOf s.fillResidues (s.fillQuot * (s.cfg.n - 1) + j) = elementOf s.fillGen.v j ∧
    elementOf (drawnResidues s) (s.fillQuot * (s.cfg.n - 1) + j) = elementOf s.fillGen.v (j + 1) := by
  rw [State.fillResidues, drawnResidues, elementOf_append, elementOf_append, fullBlocks_length hl,
    if_neg (by omega), if_neg (by omega), Nat.add_sub_cancel_left, elementOf_take _ hj, elementOf_take _ hj,
    elementOf_tail]
  exact ⟨rfl, rfl⟩

theorem drawnResidues_length (hc : s.cfg.wf) (hl : s.v.length = s.cfg.n) :
    (drawnResidues s).length = s.arg0.toNat := by
  have hn : 8 ≤ s.cfg.n := hc.1
  have hr : s.fillRem < s.cfg.n - 1 := Nat.mod_lt _ (by omega)
  rw [drawnResidues, List.length_append, fullBlocks_length hl, List.length_take, List.length_tail,
    fillGen_length hl, Nat.min_eq_left hr.le, fillQuot_mul_add_fillRem]

end

/-- Settles O35: slots and results are the encodings of `fillResidues` and `drawnResidues`, which agree in the full blocks
and are one element apart in the partial one; both commands leave `fillGen`. -/
theorem fillAgreesWithNext : Obligations.FillAgreesWithNext := by
  intro s h hseed hcursor hkept hcount haddr n r
  have hc := h.cfgLegal
  have hl := h.vLength
  obtain ⟨u, hdraws, hu⟩ := exists_draws_fill ⟨h, rfl, rfl, hseed, rfl, hcursor⟩
  have hlen : (drawnResidues s).length = n := drawnResidues_length hc hl
  have hrun : uniformDraws n s = some ((drawnResidues s).map uniformBits, u) := hlen ▸ hdraws.uniformDraws_eq
  have hgen := gen_of_stored (fillGen_ok hc (genOk_of_inv h))
    (t := completed { s.withGen s.fillGen with cursor := s.fillCursor, mem := s.portWrites s.arg1.toNat s.fillWords })
    rfl rfl
  obtain ⟨hv, hcsum⟩ := stored_eq_of_gen_eq (hgen.trans hu.gen.symm)
  have hslot {k : Nat} (hk : k < n) :
      (s.portWrites s.arg1.toNat s.fillWords).readWord (s.arg1.toNat + 8 * k) =
        uniformBits (elementOf s.fillResidues k) := by
    rw [readWord_fillWords hc hl h.memCanonical hk, hkept, if_neg List.not_mem_nil]
  have hsum : s.fillQuot * (s.cfg.n - 1) + r = n := fillQuot_mul_add_fillRem s
  have hfull : n - r = s.fillQuot * (s.cfg.n - 1) := by omega
  refine ⟨_, _, u, exec_fillUniform_of_checks hseed hcount haddr, hrun, by rw [List.length_map, hlen], hv, hcsum,
    fun k hk => ?_, fun j hj => ?_, fillCursor_toNat hc, hu.cursor⟩
  · rw [getD_map_uniformBits, ← elementOf_fullBlocks hl (hfull ▸ hk)]
    exact hslot (by omega)
  · obtain ⟨hfilled, hdrawn⟩ := elementOf_partialBlock hl hj
    rw [getD_map_uniformBits, ← elementOf_gen, ← elementOf_gen, hgen, hfull, hdrawn, ← hfilled]
    exact ⟨hslot (by omega), rfl⟩

end Sys2Proof.Proofs

namespace Sys2Proof.Proofs

open Sys2Proof Sys2Proof.Machine Sys2Proof.Laws

/-! # Proofs of the statements about seeding (44_seeding) -/

/-! ### The generator of SEED_LINEAR as 64-bit word arithmetic (44_seeding R163) -/

/-- One step of the generator on words; `toNat_lcgStep` ties it to the model's `lcgNext`. -/
def lcgStep (l : Word) : Word := (l * 6364136223846793005).rotateLeft 32

/-- The first n generator states from the seed on, each masked to 61 bits; `storedV_linearVector` ties it to the model's
`linearVector`. -/
def linearWords (n : Nat) (seed : Word) : List Word :=
  (List.range n).map fun i => lcgStep^[i] seed &&& BitVec.ofNat 64 mersBase

theorem toNat_mul_multiplier (l : Word) :
    (l * 6364136223846793005).toNat = l.toNat * lcgMultiplier % 2 ^ 64 := BitVec.toNat_mul ..

theorem toNat_lcgStep (l : Word) : (lcgStep l).toNat = lcgNext l.toNat := by
  have hhigh : (l.toNat * lcgMultiplier % 2 ^ 64) >>> (64 - 32) < 2 ^ 64 :=
    (Nat.shiftRight_le _ _).trans_lt (Nat.mod_lt _ (by decide))
  rw [lcgStep, BitVec.toNat_rotateLeft, toNat_mul_multiplier, lcgNext, rotl64, Nat.or_mod_two_pow,
    Nat.mod_eq_of_lt hhigh]

/-- A rotation by half the width only swaps the halves, so it gives 0 for 0 only. -/
theorem eq_zero_of_rotateLeft_eq_zero {x : Word} (h : x.rotateLeft 32 = 0) : x = 0 := by
  have hor : x.toNat <<< 32 % 2 ^ 64 ||| x.toNat >>> 32 = 0 :=
    (BitVec.toNat_rotateLeft (r := 32)).symm.trans (congrArg BitVec.toNat h)
  rw [Nat.or_eq_zero_iff, Nat.shiftLeft_eq, Nat.shiftRight_eq_div_pow] at hor
  exact BitVec.eq_of_toNat_eq (show x.toNat = 0 by omega)

/-- The multiplier is odd, so multiplying by it modulo 2^64 gives 0 for 0 only. -/
theorem eq_zero_of_mul_multiplier_eq_zero {x : Word} (h : x * 6364136223846793005 = 0) : x = 0 := by
  have hodd : Nat.Coprime (2 ^ 64) lcgMultiplier := by decide
  have hprod : x.toNat * lcgMultiplier % 2 ^ 64 = 0 := by rw [← toNat_mul_multiplier, h]; rfl
  have hdvd : 2 ^ 64 ∣ x.toNat := hodd.dvd_of_dvd_mul_right (Nat.dvd_of_mod_eq_zero hprod)
  exact BitVec.eq_of_toNat_eq (Nat.eq_zero_of_dvd_of_lt hdvd x.isLt)

theorem lcgStep_ne_zero {l : Word} (h : l ≠ 0) : lcgStep l ≠ 0 :=
  fun h0 => h (eq_zero_of_mul_multiplier_eq_zero (eq_zero_of_rotateLeft_eq_zero h0))

theorem lcgStep_iterate_ne_zero {seed : Word} (h : seed ≠ 0) (i : Nat) : lcgStep^[i] seed ≠ 0 :=
  Function.Iterate.rec (· ≠ 0) h (fun _ => lcgStep_ne_zero) i

/-! ### The vectors the seeding commands store -/

/-- The first n + 1 states of a generator f are its seed and the first n states from f of the seed. -/
theorem map_range_succ_iterate {α β : Type} (f : α → α) (g : α → β) (a : α) (n : Nat) :
    ((List.range (n + 1)).map fun i => g (f^[i] a)) = g a :: (List.range n).map fun i => g (f^[i] (f a)) := by
  simp [List.range_succ_eq_map, Function.comp_def]

theorem linearWords_succ (n : Nat) (seed : Word) :
    linearWords (n + 1) seed = (seed &&& BitVec.ofNat 64 mersBase) :: linearWords n (lcgStep seed) :=
  map_range_succ_iterate lcgStep (· &&& BitVec.ofNat 64 mersBase) seed n

theorem ofNat_and_mersBase (x : Word) :
    BitVec.ofNat 64 (x.toNat &&& mersBase) = x &&& BitVec.ofNat 64 mersBase := by
  rw [BitVec.ofNat_and, BitVec.ofNat_toNat, BitVec.setWidth_eq]

theorem storedV_lcgFill (k : Nat) (l : Word) : storedV (lcgFill k l.toNat) = linearWords k (lcgStep l) := by
  induction k generalizing l with
  | zero => rfl
  | succ k ih =>
    have hrest := ih (lcgStep l)
    rw [toNat_lcgStep] at hrest
    rw [linearWords_succ, ← ofNat_and_mersBase, toNat_lcgStep, ← hrest]
    rfl

theorem storedV_linearVector {n : Nat} (hn : 0 < n) (seed : Word) :
    storedV (linearVector n seed.toNat) = linearWords n seed := by
  obtain ⟨n, rfl⟩ := Nat.exists_eq_succ_of_ne_zero hn.ne'
  rw [linearWords_succ, ← ofNat_and_mersBase, ← storedV_lcgFill]
  rfl

theorem storedV_basisVector (n k : Nat) :
    storedV (basisVector n k) = (List.range n).map fun i => if i = k then 1 else 0 := by
  refine List.ext_getElem (by simp [storedV]) fun i _ _ => ?_
  simp only [storedV, basisVector, List.getElem_map, List.getElem_set, List.getElem_replicate, List.getElem_range,
    eq_comm (a := k)]
  split <;> rfl

/-! ### The checksum of SEED_LINEAR (44_seeding R164) -/

/-- The exact sum behind the checksum SEED_LINEAR installs with the words v; `linearCsum_eq_red` ties it to the model's
`linearCsum`. -/
def linearSum (c : Config) (v : List Word) : Nat :=
  match c.slCsum with
  | .full => (v.map BitVec.toNat).sum
  | .excl0 => (v.tail.map BitVec.toNat).sum

theorem linearCsum_eq_red (c : Config) {v : List Nat} (hv : residues v) :
    linearCsum c v = red c.pReduce (linearSum c (storedV v)) := by
  unfold linearCsum linearSum
  cases c.slCsum with
  | full => rw [csumFull_eq_red _ hv, storedV_toNat hv]
  | excl0 => rw [csumExcl0_eq_red _ hv, List.map_tail, storedV_toNat hv]

/-! ### The commands -/

section

variable {s : State}

theorem exec_seedBasis (h : s.arg0.toNat < s.cfg.n) :
    exec .seedBasis s = .next (completed (s.install
      { v := basisVector s.cfg.n s.arg0.toNat, cs := if s.arg0.toNat = 0 then 0 else 1 })) := if_pos h

theorem exec_seedLinear (h : s.arg0 ≠ 0) :
    exec .seedLinear s = .next (completed (s.install
      { v := linearVector s.cfg.n s.arg0.toNat,
        cs := linearCsum s.cfg (linearVector s.cfg.n s.arg0.toNat) })) := if_neg h

theorem exec_recomputeCsum (h : s.seeded = true) :
    exec .recomputeCsum s =
      .next (completed { s with csum := BitVec.ofNat 64 (csumExcl0 s.cfg.pReduce s.gen.v) }) := if_pos h

/-- What SEED_LINEAR installs, in words (44_seeding R163, R164). -/
theorem install_linearVector (hn : 0 < s.cfg.n) :
    s.install { v := linearVector s.cfg.n s.arg0.toNat, cs := linearCsum s.cfg (linearVector s.cfg.n s.arg0.toNat) } =
      { s with v := linearWords s.cfg.n s.arg0,
               csum := BitVec.ofNat 64 (red s.cfg.pReduce (linearSum s.cfg (linearWords s.cfg.n s.arg0))),
               cursor := BitVec.ofNat 16 s.cfg.n, seeded := true } := by
  rw [linearCsum_eq_red _ (linearVector_residues _ _), State.install, State.withGen, storedV_linearVector hn]

end

/-- Settles O37: the model's generator is `lcgStep` on words, which keeps words nonzero since its multiplier is odd and
its rotation swaps halves; the checksum is the reduction of the exact sum in both conventions. -/
theorem seedLinearResult : Obligations.SeedLinearResult := by
  refine ⟨by decide, fun s hc => ⟨fun h => ?_, lcgStep_iterate_ne_zero, fun h => if_pos h⟩⟩
  have hn : 8 ≤ s.cfg.n := hc.1
  rw [exec_seedLinear h, install_linearVector (by omega)]
  rfl

/-- Settles O38: csum_excl0 of a vector of residues is red of the exact sum from index 1 on, and as a residue it fits in
CSUM. -/
theorem recomputeCsumResult : Obligations.RecomputeCsumResult := by
  refine ⟨by decide, fun s => ⟨fun hseed hv => ⟨_, exec_recomputeCsum hseed, ?_, ?_⟩,
    exec_of_unseeded (i := .recomputeCsum) rfl⟩⟩
  all_goals have hgen : residues s.gen.v := List.forall_mem_map.2 hv
  · exact toNat_ofNat_of_le (csumExcl0_le _ hgen)
  · rw [csumExcl0_eq_red _ hgen, List.map_tail]
    rfl

/-- Settles O36: the two branches of SEED_BASIS, and the basis vector element by element. -/
theorem seedBasisResult : Obligations.SeedBasisResult := by
  refine ⟨by decide, fun s => ⟨fun h => ?_, fun h => if_neg (Nat.not_lt.2 h)⟩⟩
  have hzero : s.arg0.toNat = 0 ↔ s.arg0 = 0 := BitVec.toNat_inj (y := 0)
  rw [exec_seedBasis h, State.install, State.withGen, storedV_basisVector]
  simp only [hzero]
  split <;> rfl

end Sys2Proof.Proofs

namespace Sys2Proof.Proofs

open Sys2Proof Sys2Proof.Machine Sys2Proof.Laws

/-! # Proofs of the statements about skip-ahead (45_skip) -/

/-! ### The rows an ID selects (45_skip R180) -/

section

variable {ids : List Nat}

/-- The 128 table rows, level by level. -/
theorem range_rows_eq_flatMap :
    List.range 128 = (List.range 4).flatMap fun l => (List.range 32).map fun r => r + 32 * l := by decide

theorem idBit_row (ids : List Nat) (l : Nat) {r : Nat} (hr : r < 32) :
    idBit ids (r + 32 * l) = (ids.getD l 0).testBit r := by
  rw [idBit, Nat.add_mul_div_left _ _ (by decide), Nat.div_eq_of_lt hr, Nat.zero_add, Nat.add_mul_mod_self_left,
    Nat.mod_eq_of_lt hr]

/-- The selected rows are those of the model's loop over rows 0 to 127 whose ID bit is set (45_skip R181). -/
theorem selectedRows_eq_filter (ids : List Nat) : selectedRows ids = (List.range 128).filter (idBit ids) := by
  rw [range_rows_eq_flatMap, List.filter_flatMap, selectedRows]
  refine List.flatMap_congr fun l _ => ?_
  rw [List.filter_map]
  refine congrArg _ (List.filter_congr fun r hr => ?_)
  exact (idBit_row ids l (List.mem_range.1 hr)).symm

theorem lt_of_mem_selectedRows {k : Nat} (h : k ∈ selectedRows ids) : k < 128 := by
  rw [selectedRows_eq_filter] at h
  exact List.mem_range.1 (List.mem_filter.1 h).1

theorem selectedRows_of_zero (h : ∀ x ∈ ids, x = 0) : selectedRows ids = [] := by
  rw [selectedRows_eq_filter, List.filter_eq_nil_iff]
  intro k _
  rw [idBit, show ids.getD (k / 32) 0 = 0 from elementOf_eq_zero h _, Nat.zero_testBit]
  exact Bool.false_ne_true

theorem idBit_single {l r : Nat} (hl : l < 4) (hr : r < 32) (k : Nat) :
    idBit ((List.replicate 4 0).set l (2 ^ r)) k = (k == r + 32 * l) := by
  have hlevel : ((List.replicate 4 0).set l (2 ^ r)).getD (k / 32) 0 = if k / 32 = l then 2 ^ r else 0 := by
    have hzero : elementOf (List.replicate 4 0) (k / 32) = 0 :=
      elementOf_eq_zero (fun _ => List.eq_of_mem_replicate) _
    exact (elementOf_set (v := List.replicate 4 0) _ hl _).trans (by rw [hzero])
  rw [idBit, hlevel, Bool.eq_iff_iff, beq_iff_eq]
  split
  · rw [Nat.testBit_two_pow, decide_eq_true_eq]
    omega
  · rw [Nat.zero_testBit]
    simp only [Bool.false_eq_true, false_iff]
    omega

/-- One set bit selects one row (45_skip R180). -/
theorem selectedRows_single {l r : Nat} (hl : l < 4) (hr : r < 32) :
    selectedRows ((List.replicate 4 0).set l (2 ^ r)) = [r + 32 * l] := by
  have hmem : r + 32 * l ∈ List.range 128 := List.mem_range.2 (by omega)
  rw [selectedRows_eq_filter, List.filter_congr fun k _ => idBit_single hl hr k, List.filter_beq,
    List.count_eq_one_of_mem List.nodup_range hmem, List.replicate_one]

end

/-! ### A skip as the effects of its set bits (45_skip R181) -/

section

variable {c : Config} {t : List (List Word)}

/-- The working vector y after the set bit of table row k (45_skip R181), in terms of the model's `skipRow`. -/
def skipBit (c : Config) (t : List (List Word)) (y : List Nat) (k : Nat) : List Nat :=
  (skipRow c (tableRow t k) (excl0Gen c y)).v

theorem skipRow_excl0Gen (k : Nat) (y : List Nat) :
    skipRow c (tableRow t k) (excl0Gen c y) = excl0Gen c (skipBit c t y k) := rfl

/-- Between bits the working checksum is EXCL0 of the working vector, so the vector alone says what follows. -/
theorem skipRows_eq_foldl (ids ks : List Nat) (y : List Nat) :
    skipRows c t ids ks (excl0Gen c y) = excl0Gen c ((ks.filter (idBit ids)).foldl (skipBit c t) y) := by
  induction ks generalizing y with
  | nil => rfl
  | cons k ks ih =>
    rw [skipRows]
    cases hk : idBit ids k with
    | true => rw [if_pos rfl, skipRow_excl0Gen, ih, List.filter_cons_of_pos hk, List.foldl_cons]
    | false => rw [if_neg Bool.false_ne_true, ih, List.filter_cons_of_neg (by simp [hk])]

theorem skipVector_eq_foldl (c : Config) (t : List (List Word)) (ids : List Nat) (y : List Nat) :
    skipVector c t ids y = (selectedRows ids).foldl (skipBit c t) y := by
  rw [skipVector, skipRows_eq_foldl, selectedRows_eq_filter]
  rfl

theorem skipVector_of_zero {ids : List Nat} (h : ∀ x ∈ ids, x = 0) (y : List Nat) : skipVector c t ids y = y := by
  rw [skipVector_eq_foldl, selectedRows_of_zero h]
  rfl

end

/-- Settles O41: a skip folds the effects of the selected rows (`skipVector_eq_foldl`), of which one set bit gives one
and zeros give none. -/
theorem idBitSelectsTableRow : Obligations.IdBitSelectsTableRow := by
  refine fun c t y => ⟨fun l hl r hr => ?_, skipVector_of_zero (by simp) y, fun ids => skipVector_eq_foldl c t ids y,
    fun s => rfl⟩
  rw [skipVector_eq_foldl, selectedRows_single hl hr]
  rfl

/-! ### SKIP and SEED_STREAM (45_skip R183 to R186) -/

section

variable {s : State} {t : List (List Word)} {reqt : Bool}

theorem exec_skip (hseed : s.seeded = true) (hids : s.idsOk) (ht : s.cfg.table = some t) :
    exec .skip s = .next (completed (s.install (skipGen s.cfg t s.levelIds s.gen.v))) := by
  simp only [exec, execSkip, if_pos hseed, if_pos hids, ht, succeed]

theorem exec_skip_of_ids (hseed : s.seeded = true) (hids : ¬ s.idsOk) :
    exec .skip s = .next (failed .operandRange s) := by
  simp only [exec, execSkip, if_pos hseed, if_neg hids, raise]

theorem exec_skip_of_no_table (hseed : s.seeded = true) (hids : s.idsOk) (ht : s.cfg.table = none) :
    exec .skip s = .next (failed .missingSkipTable s) := by
  simp only [exec, execSkip, if_pos hseed, if_pos hids, ht, raise]

theorem exec_seedStream (hids : s.idsOk) (ht : s.cfg.table = some t) :
    exec (.seedStream reqt) s =
      .next (completed (s.install (skipGen s.cfg t s.levelIds (basisVector s.cfg.n 0)))) := by
  simp only [exec, execSeedStream, if_pos hids, ht, succeed]

theorem exec_seedStream_of_no_table (hids : s.idsOk) (ht : s.cfg.table = none) :
    exec (.seedStream reqt) s =
      if reqt = true then .next (failed .missingSkipTable s)
      else .next (completed
        (s.install (fallbackGen s.cfg s.arg0.toNat s.arg1.toNat s.arg2.toNat s.arg3.toNat))) := by
  simp only [exec, execSeedStream, if_pos hids, ht, succeed, raise]

/-- In a seeded engine installing a generator writes V, CSUM and CURSOR only. -/
theorem install_of_seeded (hseed : s.seeded = true) (g : Gen) :
    s.install g = { s with v := storedV g.v, csum := BitVec.ofNat 64 g.cs, cursor := BitVec.ofNat 16 s.cfg.n } := by
  rw [State.install, State.withGen, ← hseed]

theorem basisVector_zero_eq (n : Nat) : basisVector n 0 = (List.range n).map fun i => if i = 0 then 1 else 0 := by
  refine List.ext_getElem (by simp) fun i _ _ => ?_
  simp only [basisVector, List.getElem_map, List.getElem_set, List.getElem_replicate, List.getElem_range,
    eq_comm (a := 0)]

/-- The packed vector with its shifts as products (45_skip R186). -/
theorem packedIds_eq (c : Config) (cl ma ru st : Nat) :
    packedIds c cl ma ru st =
      [cl, ma, ru, st, cl * 2 ^ c.fbShifts.cluster, ma * 2 ^ c.fbShifts.machine,
        ru * 2 ^ c.fbShifts.run, st * 2 ^ c.fbShifts.stream] ++ List.replicate (c.n - 8) 0 := by
  simp only [packedIds, Nat.shiftLeft_eq]

/-- The fallback's two raw iterations start with the reduction of an exact sum as checksum (45_skip R186). -/
theorem fallbackGen_eq {c : Config} {cl ma ru st : Nat} (h : residues (packedIds c cl ma ru st)) :
    fallbackGen c cl ma ru st = (iterateRaw c)^[2]
      { v := packedIds c cl ma ru st, cs := red c.pReduce (packedIds c cl ma ru st).tail.sum } := by
  rw [fallbackGen, excl0Gen, csumExcl0_eq_red _ h]
  rfl

end

/-- Settles O39: the branches of SEED_STREAM, with e_0 and the fallback's start written out. -/
theorem seedStreamResult : Obligations.SeedStreamResult := by
  refine ⟨by decide, by decide, fun s reqt hc => ⟨fun hids ht hreqt => ?_, fun hids t ht => ?_,
    fun hids ht hreqt => ?_, fun hids => if_neg hids⟩⟩
  · have ⟨h0, h1, h2, h3⟩ := hids
    rw [exec_seedStream_of_no_table hids ht, if_neg (by simp [hreqt]),
      fallbackGen_eq (packedIds_residues hc h0 h1 h2 h3), packedIds_eq]
    rfl
  · rw [exec_seedStream hids ht, basisVector_zero_eq]
    rfl
  · rw [exec_seedStream_of_no_table hids ht, if_pos hreqt]

/-- Settles O40: the branches of SKIP; with IDs of zeros the installed vector is the stored one. -/
theorem skipResult : Obligations.SkipResult := by
  refine ⟨by decide, fun s => ⟨fun hseed hids t ht => ?_, fun hseed h0 h1 h2 h3 htable => ?_,
    exec_of_unseeded (i := .skip) rfl, exec_skip_of_ids, exec_skip_of_no_table⟩⟩
  · rw [exec_skip hseed hids ht, install_of_seeded hseed]
    rfl
  · obtain ⟨t, ht⟩ := Option.isSome_iff_exists.1 htable
    have hids : s.idsOk := by simp [State.idsOk, h0, h1, h2, h3]
    have hzero : ∀ x ∈ s.levelIds, x = 0 := by simp [State.levelIds, h0, h1, h2, h3]
    rw [exec_skip hseed hids ht, install_of_seeded hseed, skipGen, skipVector_of_zero hzero]
    simp only [excl0Gen, storedV_gen]
    rfl

/-! ### Vectors modulo p and the recurrence matrix -/

section

variable {c : Config}

/-- The first N elements of f and g are congruent modulo p. -/
def AgreeModP (c : Config) (f g : Nat → Nat) : Prop := ∀ i < c.n, f i ≡ g i [MOD mersBase]

theorem AgreeModP.trans {f g h : Nat → Nat} (hfg : AgreeModP c f g) (hgh : AgreeModP c g h) : AgreeModP c f h :=
  fun i hi => (hfg i hi).trans (hgh i hi)

theorem AgreeModP.matVec_congr {f g : Nat → Nat} (h : AgreeModP c f g) : AgreeModP c (matVec c f) (matVec c g) :=
  fun _ _ => Nat.ModEq.sum fun l hl => (h l (Finset.mem_range.1 hl)).mul_left _

theorem AgreeModP.iterate_congr {f g : Nat → Nat} (h : AgreeModP c f g) (j : Nat) :
    AgreeModP c ((matVec c)^[j] f) ((matVec c)^[j] g) := by
  induction j generalizing f g with
  | zero => exact h
  | succ j ih => exact ih h.matVec_congr

theorem AgreeModP.rowPolynomial_congr {f g : Nat → Nat} (h : AgreeModP c f g) (row : List Nat) :
    AgreeModP c (rowPolynomial c row f) (rowPolynomial c row g) :=
  fun i hi => Nat.ModEq.sum fun j _ => (h.iterate_congr j i hi).mul_left _

/-- The recurrence matrix as a linear map; `coe_matEnd` ties it to `matVec`. -/
def matEnd (c : Config) : Module.End ℕ (ℕ → ℕ) where
  toFun := matVec c
  map_add' f g := funext fun i => by simp [matVec, Nat.mul_add, Finset.sum_add_distrib]
  map_smul' a f := funext fun i => by simp [matVec, Finset.mul_sum, Nat.mul_left_comm]

theorem coe_matEnd (c : Config) : ⇑(matEnd c) = matVec c := rfl

/-- A table row's polynomial in the recurrence matrix; `rowEnd_apply` ties it to `rowPolynomial`. -/
def rowEnd (c : Config) (row : List Nat) : Module.End ℕ (ℕ → ℕ) :=
  ∑ j ∈ Finset.range c.n, elementOf row j • matEnd c ^ j

theorem rowEnd_apply (row : List Nat) (f : Nat → Nat) : rowEnd c row f = rowPolynomial c row f := by
  funext i
  simp only [rowEnd, rowPolynomial, LinearMap.sum_apply, Finset.sum_apply, LinearMap.smul_apply, Pi.smul_apply,
    smul_eq_mul, Module.End.pow_apply, coe_matEnd]

/-- Polynomials in one matrix commute (45_skip R187). -/
theorem rowEnd_commute (row row' : List Nat) : Commute (rowEnd c row) (rowEnd c row') :=
  Commute.sum_left _ _ _ fun j _ => Commute.sum_right _ _ _ fun k _ =>
    ((Commute.refl (matEnd c)).pow_pow j k).smul_left _ |>.smul_right _

theorem rowPolynomial_comm (row row' : List Nat) (f : Nat → Nat) :
    rowPolynomial c row (rowPolynomial c row' f) = rowPolynomial c row' (rowPolynomial c row f) := by
  simp only [← rowEnd_apply]
  exact LinearMap.congr_fun (rowEnd_commute row row') f

end

/-! ### One set bit as a polynomial in the recurrence matrix (45_skip R187) -/

section

variable {c : Config}

/-- A raw iteration of a vector with its EXCL0 checksum is the matrix modulo p (42_iteration R127). -/
theorem iterateRaw_agree {g : Gen} (hc : c.wf) (hg : GenOk c g) (hcs : GenExcl0 c g) :
    AgreeModP c (elementOf (iterateRaw c g).v) (matVec c (elementOf g.v)) := by
  obtain ⟨hl, hv, hle⟩ := hg
  have hsum : g.cs ≡ g.v.tail.sum [MOD mersBase] := by
    rw [hcs, csumExcl0_eq_red _ hv]
    exact red_modEq _ _
  exact (rawIterationIsRecurrenceMatrix c g hc hl hv hle).1 hsum

/-- One lag adds w times the working vector to the accumulator, modulo p (45_skip R181). -/
theorem elementOf_accumulate_modEq {w i : Nat} {cum y : List Nat} (hi : i < c.n) (hw : w ≤ mersBase)
    (hl : cum.length = c.n) (hcum : residues cum) (hyl : y.length = c.n) (hy : residues y) :
    elementOf (accumulate c.pReduce w cum y) i ≡ elementOf cum i + w * elementOf y i [MOD mersBase] := by
  have hfmma : elementOf (accumulate c.pReduce w cum y) i = fmma c.pReduce (elementOf cum i) w (elementOf y i) := by
    rw [elementOf_eq_getElem (by simp [accumulate_length _ _ (hl.trans hyl.symm), hyl, hi]),
      elementOf_eq_getElem (hi.trans_eq hl.symm), elementOf_eq_getElem (hi.trans_eq hyl.symm)]
    exact List.getElem_zipWith
  rw [hfmma.trans (fmma_eq_red _ (getD_le_of_residues hcum i) hw (getD_le_of_residues hy i))]
  exact red_modEq _ _

/-- The lag loop adds the row's polynomial in the matrix to its accumulator, modulo p: before lag j the working vector
has been through j raw iterations. -/
theorem elementOf_lagLoop_modEq {row cum : List Nat} {g : Gen} {i : Nat} (hi : i < c.n) (hc : c.wf)
    (hrow : residues row) (hg : GenOk c g) (hcs : GenExcl0 c g) (hl : cum.length = c.n) (hcum : residues cum) :
    elementOf (lagLoop c row g cum) i ≡
      elementOf cum i + ∑ j ∈ Finset.range row.length, elementOf row j * (matVec c)^[j] (elementOf g.v) i
        [MOD mersBase] := by
  induction row generalizing g cum with
  | nil => simp [lagLoop, Nat.ModEq.refl]
  | cons w row ih =>
    obtain ⟨hw, hrow⟩ := List.forall_mem_cons.1 hrow
    have hcum' := accumulate_residues c.pReduce hw hcum hg.elements
    have hl' := (accumulate_length c.pReduce w (hl.trans hg.length.symm)).trans hg.length
    have hrest := ih hrow (iterateRaw_ok hc hg) (iterateRaw_excl0 hc hg) hl' hcum'
    have hlag := elementOf_accumulate_modEq hi hw hl hcum hg.length hg.elements
    have hlags := Nat.ModEq.sum (s := Finset.range row.length) fun j _ =>
      ((iterateRaw_agree hc hg hcs).iterate_congr j i hi).mul_left (elementOf row j)
    calc elementOf (lagLoop c (w :: row) g cum) i
        ≡ elementOf cum i + w * elementOf g.v i +
            ∑ j ∈ Finset.range row.length, elementOf row j * (matVec c)^[j] (matVec c (elementOf g.v)) i
              [MOD mersBase] := hrest.trans (hlag.add hlags)
      _ = _ := by
        rw [List.length_cons, Finset.sum_range_succ', Nat.add_assoc, Nat.add_comm (w * _)]
        rfl

/-- Processing one set bit applies its row's polynomial, modulo p (45_skip R187). -/
theorem skipRow_agree {row y : List Nat} (hc : c.wf) (hrow : residues row) (hlen : row.length = c.n)
    (hl : y.length = c.n) (hy : residues y) :
    AgreeModP c (elementOf (skipRow c row (excl0Gen c y)).v) (rowPolynomial c row (elementOf y)) := by
  have hzero : ∀ x ∈ List.replicate c.n 0, x = 0 := fun _ => List.eq_of_mem_replicate
  intro i hi
  have hloop := elementOf_lagLoop_modEq hi hc hrow (excl0Gen_ok hl hy) (excl0Gen_excl0 c y)
    (List.length_replicate (a := 0)) fun x hx => hzero x hx ▸ Nat.zero_le _
  rw [elementOf_eq_zero hzero, Nat.zero_add, hlen] at hloop
  exact hloop

end

/-! ### A skip as the product over its set bits (45_skip R187) -/

section

variable {c : Config} {t : List (List Word)}

/-- A legal table has 128 rows of N entries (00_scope R10). -/
theorem tableRow_length (hc : c.wf) (ht : c.table = some t) {k : Nat} (hk : k < 128) :
    (tableRow t k).length = c.n := by
  obtain ⟨-, -, -, htab, -⟩ := hc
  simp only [Config.tableOk, ht, Bool.and_eq_true, beq_iff_eq, List.all_eq_true] at htab
  obtain ⟨hrows, hrow⟩ := htab
  have hk' : k < t.length := hk.trans_eq hrows.symm
  rw [tableRow, List.length_map, List.getD_eq_getElem _ _ hk']
  exact (hrow _ (List.getElem_mem hk')).1

/-- The effects of set bits one after another compose their polynomials, modulo p. -/
theorem foldl_skipBit_agree (hc : c.wf) (ht : c.table = some t) {ks y : List Nat} {f : Nat → Nat}
    (hks : ∀ k ∈ ks, k < 128) (hl : y.length = c.n) (hy : residues y) (hf : AgreeModP c (elementOf y) f) :
    AgreeModP c (elementOf (ks.foldl (skipBit c t) y))
      (ks.foldl (fun f k => rowPolynomial c (tableRow t k) f) f) := by
  induction ks generalizing y f with
  | nil => exact hf
  | cons k ks ih =>
    obtain ⟨hk, hks⟩ := List.forall_mem_cons.1 hks
    have hrow := tableRow_residues hc ht k
    have hok := skipRow_ok hc hrow (excl0Gen_ok hl hy)
    have hbit := skipRow_agree hc hrow (tableRow_length hc ht hk) hl hy
    exact ih hks hok.length hok.elements (hbit.trans (hf.rowPolynomial_congr _))

end

/-- Settles O42: the lag loop builds the row's polynomial (`elementOf_lagLoop_modEq`), a skip composes the polynomials
of the selected rows, and polynomials in one matrix commute (`rowPolynomial_comm`). -/
theorem skipRowIsMatrixPolynomial : Obligations.SkipRowIsMatrixPolynomial := by
  refine fun c y hc hl hy => ⟨fun row hlen hrow => skipRow_agree hc hrow hlen hl hy, fun t ht ids order hperm => ?_⟩
  rw [skipVector_eq_foldl, hperm.foldl_eq' fun j _ k _ f => rowPolynomial_comm _ _ f]
  exact foldl_skipBit_agree hc ht (fun _ => lt_of_mem_selectedRows) hl hy fun _ _ => rfl

end Sys2Proof.Proofs

namespace Sys2Proof.Proofs

open Sys2Proof Sys2Proof.Machine Sys2Proof.Laws

/-! # Proofs of the statements about export, import and vector load (46_transfer) -/

/-! ### The words the engine reads at ARG0 (20_memory R51, R60) -/

section

variable {s : State}

/-- The word k the engine reads from ARG0 on; `importWords_eq` and `loadWords_eq` tie it to what IMPORT and LOADV
read. -/
def inputWord (s : State) (k : Nat) : Word := s.portRead (s.arg0.toNat + 8 * k)

/-- The n words the engine reads from ARG0 on that follow its first j. -/
def inputVector (s : State) (j n : Nat) : List Word := (List.range n).map fun i => inputWord s (j + i)

theorem portRead_eq_inputWord (s : State) (k : Nat) : s.portRead (s.arg0.toNat + 8 * k) = inputWord s k := rfl

/-- With no racing write the engine reads memory's own words (20_memory R60). -/
theorem inputWord_of_latched_nil (h : s.latched = []) (k : Nat) :
    inputWord s k = s.mem.readWord (s.arg0.toNat + 8 * k) := by
  rw [inputWord, State.portRead, h]
  rfl

theorem portReads_eq_inputVector (s : State) (j n : Nat) :
    s.portReads (s.arg0.toNat + 8 * j) n = inputVector s j n := by
  refine List.ext_getElem? fun i => ?_
  rw [portReads_getElem?, inputVector, List.getElem?_map]
  split
  · next h => rw [List.getElem?_range h, Option.map_some, inputWord, Nat.mul_add, Nat.add_assoc]
  · next h => rw [List.getElem?_eq_none (by simpa using h), Option.map_none]

/-- The record IMPORT reads: N, cursor, checksum, and the vector (46_transfer R200, R202). -/
theorem importWords_eq (s : State) :
    s.importWords = (inputWord s 0).toNat :: (inputWord s 1).toNat :: (inputWord s 2).toNat ::
      (inputVector s 3 s.cfg.n).map BitVec.toNat := by
  rw [← portReads_eq_inputVector]
  rfl

theorem loadWords_eq (s : State) : s.loadWords = (inputVector s 0 s.cfg.n).map BitVec.toNat :=
  congrArg (List.map BitVec.toNat) (portReads_eq_inputVector s 0 s.cfg.n)

theorem residues_inputVector_iff {j n : Nat} :
    residues ((inputVector s j n).map BitVec.toNat) ↔ ∀ i < n, (inputWord s (j + i)).toNat ≤ mersBase := by
  simp [residues, inputVector]

/-- The words after the first of a vector read from memory are those read one word later. -/
theorem inputVector_tail (s : State) (j n : Nat) : (inputVector s j n).tail = inputVector s (j + 1) (n - 1) := by
  cases n with
  | zero => rfl
  | succ n =>
    simp only [inputVector, List.range_succ_eq_map, List.map_cons, List.tail_cons, List.map_map]
    exact List.map_congr_left fun i _ => congrArg (inputWord s) (show j + (i + 1) = j + 1 + i by omega)

/-- csum_excl0 of a vector read from memory is red of the sum of all its words but the first (41_kernel R108). -/
theorem csumExcl0_inputVector (m : ReduceMode) {j n : Nat}
    (h : residues ((inputVector s j n).map BitVec.toNat)) :
    csumExcl0 m ((inputVector s j n).map BitVec.toNat) =
      red m (∑ i ∈ Finset.range (n - 1), (inputWord s (j + 1 + i)).toNat) := by
  rw [csumExcl0_eq_red m h, ← List.map_tail, inputVector_tail, inputVector, List.map_map]
  rfl

/-- A vector of words, stored from its numbers, is itself. -/
@[simp] theorem storedV_map_toNat (v : List Word) : storedV (v.map BitVec.toNat) = v := by
  simp [storedV, Function.comp_def]

end

/-! ### EXPORT (46_transfer R200, R201) -/

section

variable {s : State}

theorem exec_export_of_address (hseed : s.seeded = true)
    (haddr : ¬ addressOk s.cfg s.arg0.toNat (recordWords s.cfg)) :
    exec .exportState s = .next (failed .addressError s) :=
  (if_pos hseed).trans (if_neg haddr)

/-- The words of the state record by index (46_transfer R200). -/
theorem exportWords_getD (s : State) (k : Nat) :
    s.exportWords.getD k 0 =
      if k = 0 then BitVec.ofNat 64 s.cfg.n
      else if k = 1 then BitVec.ofNat 64 s.cursor.toNat
      else if k = 2 then s.csum
      else s.v.getD (k - 3) 0 := by
  match k with
  | 0 | 2 | _ + 3 => rfl
  | 1 => exact (BitVec.ofNat_toNat 64 s.cursor).symm

variable (hl : s.v.length = s.cfg.n) (hm : s.mem.wf)
include hl

theorem exportWords_length_of_length : s.exportWords.length = s.cfg.n + 3 := by
  rw [← hl]
  rfl

include hm

/-- What EXPORT leaves in word k of the record: the state's word, or memory's own where a racing host write won
(46_transfer R201, 20_memory R60). -/
theorem readWord_exportWords {k : Nat} (hk : k < s.cfg.n + 3) :
    (s.portWrites s.arg0.toNat s.exportWords).readWord (s.arg0.toNat + 8 * k) =
      if s.arg0.toNat + 8 * k ∈ s.kept then s.mem.readWord (s.arg0.toNat + 8 * k) else s.exportWords.getD k 0 := by
  have hlt : k < s.exportWords.length := (exportWords_length_of_length hl).symm ▸ hk
  refine (portWrites_spec s hm _ _).2.1 k _ ?_
  rw [List.getD_eq_getElem _ _ hlt, List.getElem?_eq_getElem hlt]

theorem readByte_exportWords {b : Nat} (hb : b < s.arg0.toNat ∨ s.arg0.toNat + 8 * (s.cfg.n + 3) ≤ b) :
    (s.portWrites s.arg0.toNat s.exportWords).readByte b = s.mem.readByte b := by
  refine (portWrites_spec s hm _ _).2.2 b ?_
  rwa [exportWords_length_of_length hl]

end

/-- Settles O43: the completion's record words and untouched bytes, and the two checks in order. -/
theorem exportResult : Obligations.ExportResult := by
  refine ⟨by decide, fun s hl hm => ⟨fun hseed halign hsize => ?_, exec_of_unseeded (i := .exportState) rfl,
    fun hseed hbad => exec_export_of_address hseed ?_⟩⟩
  · refine ⟨_, exec_export_of_checks hseed ⟨halign, hsize⟩, rfl, fun k hk => ?_,
      fun b => readByte_exportWords hl hm⟩
    rw [← exportWords_getD]
    exact readWord_exportWords hl hm hk
  · rintro ⟨halign, hsize⟩
    have hsize' : s.arg0.toNat + 8 * (s.cfg.n + 3) ≤ s.cfg.memSize := hsize
    omega

/-! ### IMPORT and LOADV (46_transfer R202, R205) -/

section

variable (s : State)

/-- IMPORT's checks, in order, and what it installs, over the words the engine reads (46_transfer R202). -/
theorem exec_import :
    exec .importState s =
      if addressOk s.cfg s.arg0.toNat (s.cfg.n + 3) then
        if (inputWord s 0).toNat = s.cfg.n then
          if residues ((inputVector s 3 s.cfg.n).map BitVec.toNat) then
            if (inputWord s 1).toNat ≤ s.cfg.n then
              if (inputWord s 2).toNat = csumExcl0 s.cfg.pReduce ((inputVector s 3 s.cfg.n).map BitVec.toNat) then
                .next (completed { s with
                  v := inputVector s 3 s.cfg.n, cursor := BitVec.ofNat 16 (inputWord s 1).toNat,
                  csum := inputWord s 2, seeded := true })
              else .next (failed .importChecksumMismatch s)
            else .next (failed .importInvalidCursor s)
          else .next (failed .importOutOfRangeValue s)
        else .next (failed .importSizeMismatch s)
      else .next (failed .addressError s) := by
  simp only [exec, execImport, importWords_eq, List.getD_cons_zero, List.getD_cons_succ, List.drop_succ_cons,
    List.drop_zero, State.install, State.withGen, storedV_map_toNat, BitVec.ofNat_toNat, BitVec.setWidth_eq]
  rfl

/-- LOADV's checks, in order, and what it installs, over the words the engine reads (46_transfer R205). -/
theorem exec_loadv :
    exec .loadv s =
      if addressOk s.cfg s.arg0.toNat s.cfg.n then
        if residues ((inputVector s 0 s.cfg.n).map BitVec.toNat) then
          .next (completed { s with
            v := inputVector s 0 s.cfg.n,
            csum := BitVec.ofNat 64 (csumExcl0 s.cfg.pReduce ((inputVector s 0 s.cfg.n).map BitVec.toNat)),
            cursor := BitVec.ofNat 16 s.cfg.n, seeded := true })
        else .next (failed .importOutOfRangeValue s)
      else .next (failed .addressError s) := by
  simp only [exec, execLoadv, loadWords_eq, State.install, State.withGen, storedV_map_toNat]
  rfl

end

/-- Settles O44: `exec_import` clause by clause, with the checksum as red of an exact sum. -/
theorem importResult : Obligations.ImportResult := by
  refine ⟨by decide, fun s => ?_⟩
  simp only [portRead_eq_inputWord, ← residues_inputVector_iff]
  refine ⟨inputWord_of_latched_nil, fun haddr => ?_, fun haddr hsize => ?_, fun haddr hsize hvalues => ?_,
    fun haddr hsize hvalues hcursor => ?_, fun haddr hsize hvalues hcursor hsum => ?_,
    fun haddr hsize hvalues hcursor hsum => ?_⟩
  · rw [exec_import, if_neg haddr]
  · rw [exec_import, if_pos haddr, if_neg hsize]
  · rw [exec_import, if_pos haddr, if_pos hsize, if_neg hvalues]
  · rw [exec_import, if_pos haddr, if_pos hsize, if_pos hvalues, if_neg hcursor]
  · rw [← csumExcl0_inputVector _ hvalues] at hsum
    rw [exec_import, if_pos haddr, if_pos hsize, if_pos hvalues, if_pos hcursor, if_neg hsum]
  · rw [← csumExcl0_inputVector _ hvalues] at hsum
    rw [exec_import, if_pos haddr, if_pos hsize, if_pos hvalues, if_pos hcursor, if_pos hsum, inputVector]

/-- Settles O45: `exec_loadv` clause by clause, with the checksum as red of an exact sum. -/
theorem loadvResult : Obligations.LoadvResult := by
  refine ⟨by decide, fun s => ?_⟩
  have hiff := residues_inputVector_iff (s := s) (j := 0) (n := s.cfg.n)
  simp only [Nat.zero_add] at hiff
  simp only [portRead_eq_inputWord, ← hiff]
  refine ⟨inputWord_of_latched_nil, fun haddr => ?_, fun haddr hvalues => ?_, fun haddr hvalues => ?_⟩
  · rw [exec_loadv, if_neg haddr]
  · rw [exec_loadv, if_pos haddr, if_neg hvalues]
  · rw [exec_loadv, if_pos haddr, if_pos hvalues, csumExcl0_inputVector _ hvalues]
    simp only [inputVector, Nat.zero_add]

/-! ### EXPORT followed by IMPORT (46_transfer R204) -/

section

variable {s : State}

/-- What EXPORT leaves where its checks pass; `exec_export_of_checks` says that it is what the model's EXPORT
leaves. -/
def exported (s : State) : State := completed { s with mem := s.portWrites s.arg0.toNat s.exportWords }

variable (h : EngineInv s) (hkept : s.kept = [])
include h hkept

/-- With no racing write, the words IMPORT reads after an EXPORT at the same address are those of the record
(46_transfer R200, R204). -/
theorem inputWord_exported {k : Nat} (hlt : k < s.cfg.n + 3) : inputWord (exported s) k = s.exportWords.getD k 0 := by
  rw [inputWord_of_latched_nil rfl]
  exact (readWord_exportWords h.vLength h.memCanonical hlt).trans (if_neg (by simp [hkept]))

theorem inputVector_exported : inputVector (exported s) 3 s.cfg.n = s.v := by
  refine List.ext_getElem (by simp [inputVector, h.vLength]) fun i hi hv => ?_
  have hlt : i < s.cfg.n := h.vLength ▸ hv
  simp only [inputVector, List.getElem_map, List.getElem_range]
  rw [Nat.add_comm, inputWord_exported h hkept (by omega)]
  exact List.getD_eq_getElem _ _ hv

/-- The three words of the record before the vector, as numbers: N and CURSOR fit in a word (46_transfer R200). -/
theorem header_exported :
    (inputWord (exported s) 0).toNat = s.cfg.n ∧ (inputWord (exported s) 1).toNat = s.cursor.toNat ∧
      inputWord (exported s) 2 = s.csum := by
  have hn : s.cfg.n ≤ 65535 := h.cfgLegal.2.1
  have hcursor := s.cursor.isLt
  refine ⟨?_, ?_, inputWord_exported h hkept (k := 2) (by omega)⟩
  · rw [inputWord_exported h hkept (by omega), exportWords_getD, if_pos rfl, BitVec.toNat_ofNat,
      Nat.mod_eq_of_lt (by omega)]
  · rw [inputWord_exported h hkept (by omega), exportWords_getD, if_neg one_ne_zero, if_pos rfl, BitVec.toNat_ofNat,
      Nat.mod_eq_of_lt (by omega)]

/-- The first four checks of IMPORT hold of a record EXPORT wrote, and what it then installs is the state's own V, CSUM
and CURSOR: the checksum alone decides (46_transfer R204). -/
theorem exec_import_exported (hseed : s.seeded = true) (haddr : addressOk s.cfg s.arg0.toNat (s.cfg.n + 3)) :
    exec .importState (exported s) =
      if s.csum.toNat = csumExcl0 s.cfg.pReduce s.gen.v then .next (exported s)
      else .next (failed .importChecksumMismatch (exported s)) := by
  obtain ⟨hn, hcursor, hcsum⟩ := header_exported h hkept
  have hcfg : (exported s).cfg = s.cfg := rfl
  have harg : (exported s).arg0 = s.arg0 := rfl
  have hvalues : residues (s.v.map BitVec.toNat) := (genOk_of_inv h).elements
  have hsame : completed { exported s with
      v := s.v, cursor := BitVec.ofNat 16 s.cursor.toNat, csum := s.csum, seeded := true } = exported s := by
    rw [BitVec.ofNat_toNat, BitVec.setWidth_eq, ← hseed]
    rfl
  rw [exec_import, hcfg, harg, inputVector_exported h hkept, hn, hcursor, hcsum, if_pos haddr, if_pos rfl,
    if_pos hvalues, if_pos h.cursorRange]
  exact ite_congr rfl (fun _ => congrArg _ hsame) fun _ => rfl

end

/-- Settles O46: EXPORT leaves `exported s`, on which IMPORT depends on the checksum alone (`exec_import_exported`). -/
theorem exportImportRoundTrip : Obligations.ExportImportRoundTrip := by
  intro s h hseed hkept halign hsize
  have himport := exec_import_exported h hkept hseed ⟨halign, hsize⟩
  exact ⟨exported s, exec_export_of_checks hseed ⟨halign, hsize⟩, rfl, rfl, rfl,
    fun hcs => himport.trans (if_pos hcs), fun hcs => himport.trans (if_neg hcs)⟩

end Sys2Proof.Proofs

namespace Sys2Proof.Proofs

open Sys2Proof Sys2Proof.Machine Sys2Proof.Laws

/-! ### Failing commands, and the refusals of a step (60_exceptions R224, R236) -/

section

variable {s t : State} {ev : HostEvent}

/-- A command that leaves ERR = 1 has raised one of its errors (60_exceptions R220, R224): a successful completion
leaves ERR = 0. -/
theorem exec_failure {i : Instr} (h : exec i s = .next t) (herr : t.err = true) : ∃ e ∈ errorsOf i, t = failed e s := by
  rcases exec_next h with ⟨u, -, rfl⟩ | hfailed
  · rw [completed_err] at herr
    exact absurd herr Bool.false_ne_true
  · exact hfailed

/-- A host event without a meaning is refused by the name of the register access it is (10_state R34). -/
theorem hostTurn_of_not_eventOk (h : ¬ eventOk ev) (s : State) : hostTurn ev s = .refused .hostRegisterAccess := by
  cases ev with
  | regWrite width offset x => exact if_neg h
  | regRead width offset => exact if_neg h
  | memWrite a x => exact absurd trivial h
  | memRead a => exact absurd trivial h
  | reset => exact absurd trivial h
  | engineTurn => exact absurd trivial h

/-- An illegal configuration is refused before anything else is looked at (00_scope R6 to R11). -/
theorem step_of_not_wf (h : ¬ s.cfg.wf) : step s = .refused .illegalConfiguration := if_neg h

/-- A window with read side effects is refused whatever the next host event is (20_memory R56). -/
theorem step_of_readSideEffects (hwf : s.cfg.wf) (hw : s.cfg.window = .readSideEffects) :
    step s = .refused .windowWithSideEffects :=
  (if_pos hwf).trans (if_neg (by simp [hw]))

/-- The step of a configuration that has a meaning, before a host event that has none. -/
theorem step_of_not_eventOk (hr : runnable s.cfg) (hev : s.host.head? = some ev) (hbad : ¬ eventOk ev) :
    step s = .refused .hostRegisterAccess := by
  obtain ⟨rest, hs⟩ := List.head?_eq_some_iff.1 hev
  exact (step_hostEvent hr hs).trans (hostTurn_of_not_eventOk hbad _)

/-- The step of a configuration that has a meaning, before no host event or one that has a meaning. -/
theorem exists_step (hr : runnable s.cfg) (hok : ∀ ev, s.host.head? = some ev → eventOk ev) :
    ∃ t, step s = .next t := by
  cases hs : s.host with
  | nil =>
    obtain ⟨t, ht, -⟩ := engineTurn_ends_idle s
    exact ⟨t, (step_engineTurn hr hs).trans ht⟩
  | cons ev rest =>
    have hev : eventOk ev := hok ev (by rw [hs, List.head?_cons])
    obtain ⟨t, ht, -⟩ := exists_hostTurn hev { s with host := rest }
    exact ⟨t, (step_hostEvent hr hs).trans ht⟩

/-- Nothing else stops a step (60_exceptions R236). -/
theorem exists_step_iff : (∃ t, step s = .next t) ↔ runnable s.cfg ∧ ∀ ev, s.host.head? = some ev → eventOk ev := by
  refine ⟨fun ⟨t, ht⟩ => ?_, fun ⟨hr, hok⟩ => exists_step hr hok⟩
  obtain ⟨hr, -⟩ := step_next ht
  refine ⟨hr, fun ev hev => ?_⟩
  by_contra hbad
  cases ht.symm.trans (step_of_not_eventOk hr hev hbad)

/-- The names under which a step is refused: those of the three conditions of `exists_step_iff` (60_exceptions R236). -/
theorem refusal_of_step {r : Refusal} (h : step s = .refused r) :
    r = .illegalConfiguration ∨ r = .windowWithSideEffects ∨ r = .hostRegisterAccess := by
  by_cases hwf : s.cfg.wf
  · cases hw : s.cfg.window with
    | readSideEffects =>
      cases h.symm.trans (step_of_readSideEffects hwf hw)
      exact .inr (.inl rfl)
    | ordinary =>
      by_cases hok : ∀ ev, s.host.head? = some ev → eventOk ev
      · obtain ⟨t, ht⟩ := exists_step ⟨hwf, hw⟩ hok
        cases h.symm.trans ht
      · push Not at hok
        obtain ⟨ev, hev, hbad⟩ := hok
        cases h.symm.trans (step_of_not_eventOk ⟨hwf, hw⟩ hev hbad)
        exact .inr (.inr rfl)
  · cases h.symm.trans (step_of_not_wf hwf)
    exact .inl rfl

end

/-- Settles O14: `exists_step_iff` for the steps with a meaning, and for the others the first condition that fails. -/
theorem stepStopsExactlyWhere : Obligations.StepStopsExactlyWhere := by
  refine fun s => ⟨exists_step_iff, step_of_not_wf, step_of_readSideEffects, fun hr width offset x hbad hev => ?_,
    fun r => refusal_of_step⟩
  have hno : ¬ accessOk width offset := fun ⟨hwidth, halign⟩ => hbad.elim (· hwidth) (· halign)
  rcases hev with hwrite | hread
  · exact step_of_not_eventOk hr hwrite hno
  · exact step_of_not_eventOk hr hread hno

/-- Settles O47: a command that fails leaves `failed e s` (`exec_failure`), which is s but for STATUS and the race
records. -/
theorem failureChangesOnlyStatus : Obligations.FailureChangesOnlyStatus := by
  intro i s t h herr
  obtain ⟨e, -, rfl⟩ := exec_failure h herr
  rfl

end Sys2Proof.Proofs

namespace Sys2Proof.Proofs

open Sys2Proof Sys2Proof.Machine Sys2Proof.Laws

/-! ### Reset in the middle of a command (70_reset R250 to R252) -/

section

variable {m : Memory} {ps : List (Nat × Word)} {b : Nat}

/-- The words of the list are apart and in rising order, as those of a command are (20_memory R51). -/
def wordsApart (ps : List (Nat × Word)) : Prop := ps.Pairwise fun c d => c.1 + 8 ≤ d.1

theorem wordsApart_wordsAt (a : Nat) (ws : List Word) : wordsApart (wordsAt a ws) := by
  induction ws generalizing a with
  | nil => exact .nil
  | cons w ws ih =>
    refine .cons (fun d hd => ?_) (ih (a + 8))
    obtain ⟨k, -, haddr, -⟩ := mem_wordsAt hd
    show a + 8 ≤ d.1
    omega

theorem wordsApart_writesInFlight (s : State) : wordsApart s.writesInFlight := by
  by_cases h : s.writesInFlight = []
  · rw [h]
    exact .nil
  · obtain ⟨a, ws, -, hplan, -⟩ := engineTurn_of_writesInFlight h
    exact hplan ▸ wordsApart_wordsAt a ws

/-- The draw for the first word leaves memory as it was or writes that word; the other draws go on from there (70_reset
R251). -/
theorem raceReset_cons (hm : m.wf) (c : Nat × Word) (ps : List (Nat × Word)) (k : Nat) :
    ∃ m' : Memory, m'.wf ∧ (m' = m ∨ m' = m.writeWord c.1 c.2) ∧
      raceReset (c :: ps) m k = raceReset ps m' (k + 1) := by
  rw [raceReset]
  split
  · exact ⟨_, writeWord_wf hm _ _, .inr rfl, rfl⟩
  · exact ⟨_, hm, .inl rfl, rfl⟩

/-- A reset leaves every byte alone that the abandoned command was not writing (70_reset R251). -/
theorem readByte_raceReset_outside (hm : m.wf) (hb : ∀ c ∈ ps, b < c.1 ∨ c.1 + 8 ≤ b) (k : Nat) :
    (raceReset ps m k).1.readByte b = m.readByte b := by
  induction ps generalizing m k with
  | nil => rfl
  | cons c ps ih =>
    obtain ⟨hfirst, hrest⟩ := List.forall_mem_cons.1 hb
    obtain ⟨m', hm', hdraw, heq⟩ := raceReset_cons hm c ps k
    rw [heq, ih hm' hrest]
    rcases hdraw with rfl | rfl
    · rfl
    · exact readByte_writeWord_outside hm _ hfirst

/-- A reset leaves each word the abandoned command was writing old or new, whatever is drawn (70_reset R251): no draw
for another word touches it. -/
theorem readWord_raceReset (hm : m.wf) (hp : wordsApart ps) {c : Nat × Word} (hc : c ∈ ps) (k : Nat) :
    (raceReset ps m k).1.readWord c.1 = m.readWord c.1 ∨ (raceReset ps m k).1.readWord c.1 = c.2 := by
  induction ps generalizing m k with
  | nil => cases hc
  | cons d ps ih =>
    obtain ⟨hfirst, hrest⟩ := List.pairwise_cons.1 hp
    obtain ⟨m', hm', hdraw, heq⟩ := raceReset_cons hm d ps k
    rw [heq]
    rcases List.mem_cons.1 hc with rfl | hc
    · have hkept : (raceReset ps m' (k + 1)).1.readWord c.1 = m'.readWord c.1 :=
        readWord_congr fun j hj => readByte_raceReset_outside hm'
          (fun e he => .inl ((Nat.add_lt_add_left hj c.1).trans_le (hfirst e he))) _
      rw [hkept]
      rcases hdraw with rfl | rfl
      · exact .inl rfl
      · exact .inr (readWord_writeWord_same hm _ _)
    · have hsame : m'.readWord c.1 = m.readWord c.1 := by
        rcases hdraw with rfl | rfl
        · rfl
        · exact readWord_writeWord_other hm _ (.inr (hfirst c hc))
      rw [← hsame]
      exact ih hm' hrest hc (k + 1)

/-- The memory after a reset does not depend on the host events to come. -/
theorem hardReset_mem_of_host (s : State) (rest : List HostEvent) :
    (hardReset { s with host := rest }).mem = (raceReset s.writesInFlight s.mem s.draws).1 := by
  have hwrites : State.writesInFlight { s with host := rest } = s.writesInFlight :=
    writesInFlight_congr rfl rfl rfl rfl rfl rfl rfl rfl rfl
  rw [hardReset_mem, hwrites]

/-- STATUS reads 0 after a reset (10_state R40, 70_reset R250). -/
theorem readReg_status_hardReset (s : State) : (hardReset s).readReg .status = 0 :=
  BitVec.eq_of_toNat_eq (statusWord_toNat (hardReset s))

end

/-- Settles O56: the step is `hardReset`, whose registers are those of `State.resetWith`, and whose memory is the
abandoned command's race (`readWord_raceReset`, `readByte_raceReset_outside`). -/
theorem resetAtAnyTime : Obligations.ResetAtAnyTime := by
  intro s rest hr hm hs
  have hmem := hardReset_mem_of_host s rest
  refine ⟨hardReset { s with host := rest }, step_hostEvent hr hs, rfl, rfl, rfl, rfl, rfl, rfl, rfl, rfl,
    readReg_status_hardReset _, rfl, rfl, rfl, rfl, rfl, fun c hc => ?_, fun b hb => ?_, fun hidle => ?_⟩
  · rw [hmem]
    exact readWord_raceReset hm (wordsApart_writesInFlight s) hc _
  · rw [hmem]
    exact readByte_raceReset_outside hm hb _
  · rw [hmem, (inFlight_of_idle hidle).1]
    rfl

end Sys2Proof.Proofs
